-- ==== Sys2Proof/Word.lean ====
section
/-! DEFINITION. The plain data types every rule uses: bits, bytes, and the 32-bit words of SHA-256
(spec/00_scope.md R10, spec/42_checksum_framer.md R164). -/

namespace Sys2Proof

/-- A bit, R10: `true` is 1, `false` is 0. A bit string is a `List Bit`, index 0 first. -/
abbrev Bit := Bool

/-- A byte, R10: bit 7 is its most significant bit. A byte string is a `List Byte`, index 0 first. -/
abbrev Byte := BitVec 8

/-- A SHA-256 word, R164: a 32-bit value whose `+` wraps modulo 2^32. -/
abbrev Word := BitVec 32

end Sys2Proof
end

