-- ==== Sys2Proof/Syntax.lean ====
section
/-! DEFINITION. The cells, the operand record and the ten ops (spec/00_scope.md R2 and R11,
spec/30_encoding.md R91, R94 and R95). -/

namespace Sys2Proof

/-- A tri-state cell, R11. Code `11` of R95 has no constructor: it is never produced and never
presentable (93_implementation_defined.md U2). -/
inductive Cell where
  | zero
  | one
  | pad
  deriving DecidableEq, Repr

/-- The operand port, R94: one record with a named field for every operand of every op. An op reads
the fields R94 lists for it and no other. The fields are values, never packed into the command word. -/
structure OperandRecord where
  /-- `CFG`: the number of cell rows. -/
  rows : Nat := 0
  /-- `CFG`: the number of cell columns. -/
  cols : Nat := 0
  /-- `CFG`: top-left corner, x. -/
  tlx : Nat := 0
  /-- `CFG`: top-left corner, y. -/
  tly : Nat := 0
  /-- `CFG`: top-right corner, x. -/
  trx : Nat := 0
  /-- `CFG`: top-right corner, y (the operand R94 names `try`). -/
  try_ : Nat := 0
  /-- `CFG`: bottom-left corner, x. -/
  blx : Nat := 0
  /-- `CFG`: bottom-left corner, y. -/
  bly : Nat := 0
  /-- `GEO.PT`: the cell's row. -/
  row : Nat := 0
  /-- `GEO.PT`: the cell's column. -/
  col : Nat := 0
  /-- `DIG`: the bit string. -/
  b : List Bit := []
  /-- `CLS`: the intensity. -/
  v : Byte := 0
  /-- `ENC.LOAD`: the byte string. -/
  s : List Byte := []
  deriving DecidableEq, Repr

/-- The ten ops of R2, one constructor per row of opcode_table.json, with the operands of R94. -/
inductive Instr where
  /-- `RST`, R120: reset. -/
  | rst
  /-- `CFG`, R122: configure. -/
  | cfg (rows cols tlx tly trx try_ blx bly : Nat)
  /-- `GEO.PT`, R147: sample-point lookup. -/
  | geoPt (row col : Nat)
  /-- `GEO.RECT`, R148: capture rectangle. -/
  | geoRect
  /-- `GEO.PITCH`, R149: pitch as exact fractions. -/
  | geoPitch
  /-- `DIG`, R162: digest of a bit string. -/
  | dig (b : List Bit)
  /-- `CLS`, R212: classify one intensity. -/
  | cls (v : Byte)
  /-- `ENC.LOAD`, R191: load the payload. -/
  | encLoad (s : List Byte)
  /-- `ENC.NEXT`, R193: emit the next frame. -/
  | encNext
  /-- `DEC.FRAME`, R221: decode one captured frame; its image is read implicitly. -/
  | decFrame
  deriving DecidableEq, Repr

/-- The mnemonic of R91 and opcode_table.json. -/
def Instr.mnemonic : Instr → String
  | .rst => "RST"
  | .cfg _ _ _ _ _ _ _ _ => "CFG"
  | .geoPt _ _ => "GEO.PT"
  | .geoRect => "GEO.RECT"
  | .geoPitch => "GEO.PITCH"
  | .dig _ => "DIG"
  | .cls _ => "CLS"
  | .encLoad _ => "ENC.LOAD"
  | .encNext => "ENC.NEXT"
  | .decFrame => "DEC.FRAME"

end Sys2Proof
end

