-- ==== Sys2Proof/Decode.lean ====
section
/-! DEFINITION. The command word (spec/30_encoding.md R90 to R94): its decoder, total on the 256
values, the encoder, and the opcode map of R91 as data. -/

namespace Sys2Proof

/-- Why a command word is not an op. -/
inductive DecodeError where
  /-- R93: a reserved command word. The block refuses it with `IllegalCommand`. -/
  | illegalCommand (cmd : Byte)
  deriving DecidableEq, Repr

/-- `unit`, R90: bits 7 to 4 of the command word. -/
def unitField (cmd : Byte) : BitVec 4 := cmd.extractLsb' 4 4

/-- `fn`, R90: bits 3 to 0 of the command word. -/
def fnField (cmd : Byte) : BitVec 4 := cmd.extractLsb' 0 4

/-- R91, R92, R93: the op a command word selects, with its operands taken from the operand port
(R94). Total; it depends on no state. -/
def decode (cmd : Byte) (o : OperandRecord) : Except DecodeError Instr :=
  match unitField cmd, fnField cmd with
  | 0x0#4, 0x1#4 => .ok .rst
  | 0x0#4, 0x2#4 => .ok (.cfg o.rows o.cols o.tlx o.tly o.trx o.try_ o.blx o.bly)
  | 0x1#4, 0x0#4 => .ok (.geoPt o.row o.col)
  | 0x1#4, 0x1#4 => .ok .geoRect
  | 0x1#4, 0x2#4 => .ok .geoPitch
  | 0x2#4, 0x0#4 => .ok (.dig o.b)
  | 0x3#4, 0x0#4 => .ok (.cls o.v)
  | 0x4#4, 0x0#4 => .ok (.encLoad o.s)
  | 0x4#4, 0x1#4 => .ok .encNext
  | 0x5#4, 0x0#4 => .ok .decFrame
  | _, _ => .error (.illegalCommand cmd)

/-- R91 and R94: the command word of an op and the operand record that carries its operands (the
fields the op does not name are 0 or empty). -/
def encode : Instr → Byte × OperandRecord
  | .rst => (0x01, {})
  | .cfg rows cols tlx tly trx try_ blx bly =>
      (0x02, { rows := rows, cols := cols, tlx := tlx, tly := tly, trx := trx, try_ := try_,
               blx := blx, bly := bly })
  | .geoPt row col => (0x10, { row := row, col := col })
  | .geoRect => (0x11, {})
  | .geoPitch => (0x12, {})
  | .dig b => (0x20, { b := b })
  | .cls v => (0x30, { v := v })
  | .encLoad s => (0x40, { s := s })
  | .encNext => (0x41, {})
  | .decFrame => (0x50, {})

/-- One row of the opcode map of R91. -/
structure OpcodeRow where
  mnemonic : String
  /-- The value the masked command word must have. -/
  value : Byte
  /-- The bits that are matched. -/
  mask : Byte
  deriving DecidableEq, Repr

/-- The opcode map of R91: "All eight bits are matched (mask `0xFF`)". -/
def opcodeTable : List OpcodeRow :=
  [ ⟨"RST", 0x01, 0xFF⟩, ⟨"CFG", 0x02, 0xFF⟩, ⟨"GEO.PT", 0x10, 0xFF⟩, ⟨"GEO.RECT", 0x11, 0xFF⟩,
    ⟨"GEO.PITCH", 0x12, 0xFF⟩, ⟨"DIG", 0x20, 0xFF⟩, ⟨"CLS", 0x30, 0xFF⟩, ⟨"ENC.LOAD", 0x40, 0xFF⟩,
    ⟨"ENC.NEXT", 0x41, 0xFF⟩, ⟨"DEC.FRAME", 0x50, 0xFF⟩ ]

/-- A row matches a command word. -/
def OpcodeRow.selects (r : OpcodeRow) (cmd : Byte) : Bool := cmd &&& r.mask == r.value

/-- The decoder on an instruction given as a number, as opcode_table.json numbers its bits: the
command word is the first byte, bits 7 to 0, and every operand of the port is 0 or empty. The table
gives every row 8 bits, so there is nothing above the first byte to read. -/
def decodeTableWord (_nbits w : Nat) : Option Instr :=
  match decode (BitVec.ofNat 8 w) {} with
  | .ok i => some i
  | .error _ => none

end Sys2Proof
end

