-- ==== Sys2Proof/Machine/State.lean ====
section
/-! DEFINITION. The state of one instance of the block (spec/10_state.md R20 to R46), the input and
output ports the model holds beside it, and the ways a step can stop. -/

namespace Sys2Proof.Machine

/-- A byte-wide address space: (address, byte) pairs in one canonical form, addresses strictly rising
and no byte equal to what an unlisted address reads as (`Memory.wf`, Machine/Ops.lean; log entry 5). -/
abbrev Memory := List Host.Cell

/-- One transaction as the host presents it (30_encoding.md R90, R94; 46_sync_protocol.md R255): the
command word, the operand record, and the image that a `DEC.FRAME` reads implicitly. -/
structure Request where
  cmd : Byte
  operands : OperandRecord := {}
  img : Memory := []
  deriving DecidableEq, Repr

/-- The result record an op returns when it completes (30_encoding.md R94). -/
inductive Result where
  /-- No record: the op has no result fields, or it did not complete. -/
  | none
  /-- `GEO.PT`: the sample point. -/
  | point (sx sy : Nat)
  /-- `GEO.RECT`: the capture rectangle. -/
  | rect (x y w h : Nat)
  /-- `GEO.PITCH`: block_width = wn / wd, block_height = hn / hd. -/
  | pitch (wn wd hn hd : Nat)
  /-- `DIG`: the digest. -/
  | digest (d : List Bit)
  /-- `CLS`: the cell. -/
  | cell (c : Cell)
  /-- `ENC.NEXT`: payload bytes carried, and whether the frame is terminal. -/
  | emitted (n : Nat) (last : Bool)
  /-- `DEC.FRAME`: payload bytes appended. -/
  | appended (m : Nat)
  deriving DecidableEq, Repr

/-- The outcomes reported in `ST` (60_exceptions.md R279). -/
inductive Status where
  | ok
  | advance
  | terminal
  | retry
  | error
  | fatal
  | refused
  deriving DecidableEq, Repr

/-- The error kinds (60_exceptions.md R270). The block never raises `captureFailure` (R274). -/
inductive ErrorKind where
  | none
  | invalidBitLength
  | checksumMismatch
  | malformedFrame
  | captureFailure
  | geometryMisconfiguration
  deriving DecidableEq, Repr

/-- The severity an error is raised with: fatal (60_exceptions.md R276), recoverable (R277), or the
plain report of the `DIG` op (R271). -/
inductive Severity where
  | fatal
  | recoverable
  | report
  deriving DecidableEq, Repr

/-- The reasons an op is refused for (60_exceptions.md R278), in the order they are tested. -/
inductive RefuseReason where
  | illegalCommand
  | faulted
  | notConfigured
  | alreadyConfigured
  | noPayload
  | alreadyLoaded
  | streamClosed
  | badOperand
  deriving DecidableEq, Repr

/-- Why the model stops. Both are accesses to an address the spec says does not exist, and both are
safe: the spec derives that they never happen (20_memory.md R65, R74), and the model raises them
only in states that `State.Inv` (Safety.lean) rules out (log entry 9). -/
inductive Fault where
  /-- Raised by `ENC.NEXT`: a read of PAY at an address at or above PLEN. Safe. -/
  | payAddress
  /-- Raised by `DEC.FRAME`: a read of IMG outside `0 ≤ dx < W`, `0 ≤ dy < H`. Safe. -/
  | imagePixel
  deriving DecidableEq, Repr

/-- Why an instruction has no meaning. Every op of the table has one, so no step answers this; what
the SPEC calls a refusal (60_exceptions.md R278) is a next state. -/
inductive Refusal where
  /-- Raised by an arm of `exec` that has no meaning yet: there is none. Safe. -/
  | notModelled (mnemonic : String)
  deriving DecidableEq, Repr

/-- Everything the spec gives one instance of the block (10_state.md R22 to R42), then the three
fields of the model's own ports. -/
structure State where
  /-- `ROWS`, R22. -/
  rows : Nat
  /-- `COLS`, R23. -/
  cols : Nat
  /-- `TLX`, R24. -/
  tlx : Nat
  /-- `TLY`, R24. -/
  tly : Nat
  /-- `TRX`, R25. -/
  trx : Nat
  /-- `TRY`, R25: stored and never read. -/
  try_ : Nat
  /-- `BLX`, R26: stored and never read. -/
  blx : Nat
  /-- `BLY`, R26. -/
  bly : Nat
  /-- `C`, R27: cells per frame. -/
  c : Nat
  /-- `D`, R28: data capacity of a frame in bits. -/
  d : Nat
  /-- `W`, R29: width of the capture rectangle. -/
  w : Nat
  /-- `H`, R29: height of the capture rectangle. -/
  h : Nat
  /-- `PLEN`, R30: length of the payload in bytes. -/
  plen : Nat
  /-- `ENC_OFF`, R31: the first payload byte not yet emitted. -/
  encOff : Nat
  /-- `OUT_LEN`, R32: bytes appended to the output sink since reset. -/
  outLen : Nat
  /-- `CFGV`, R33: configuration valid. -/
  cfgv : Bool
  /-- `PLV`, R34: payload valid. -/
  plv : Bool
  /-- `ENC_LAST`, R35: the last frame emitted was terminal. -/
  encLast : Bool
  /-- `DEC_DONE`, R36: stream complete. -/
  decDone : Bool
  /-- `ST`, R37: the outcome code of the last op (60_exceptions.md R279). -/
  st : BitVec 4
  /-- `ERR`, R37: the error code of the last op (60_exceptions.md R270). -/
  err : BitVec 3
  /-- `INFO`, R37: the sub-cause or refusal reason of the last op. -/
  info : BitVec 8
  /-- `FAULT`, R38: the code of the first fatal error since reset, 0 if none. -/
  fault : BitVec 3
  /-- `PAY`, R39: the payload memory, bytes `0 … PLEN−1`. -/
  pay : Memory
  /-- `FB`, R40: the frame buffer; no value before the first successful `ENC.NEXT`. -/
  fb : Option (List Cell)
  /-- `OUT`, R42: the output sink, bytes `0 … OUT_LEN−1`. -/
  out : Memory
  /-- MODEL's own (log entry 3): `IMG`, R41, the image of the op being performed, pixel `(dx, dy)` at
  address `dy × W + dx`. Not state of the block: an input. -/
  img : Memory
  /-- MODEL's own (log entry 2): the result port, the record the last op returned (30_encoding.md R94). -/
  result : Result
  /-- MODEL's own (log entry 1): the command and operand ports, as the ops the host issues from now
  on, in order. -/
  port : List Request
  deriving DecidableEq, Repr

/-- R46, R300: the machine right after reset. The three ports of the model hold nothing. -/
def State.reset : State where
  rows := 0
  cols := 0
  tlx := 0
  tly := 0
  trx := 0
  try_ := 0
  blx := 0
  bly := 0
  c := 0
  d := 0
  w := 0
  h := 0
  plen := 0
  encOff := 0
  outLen := 0
  cfgv := false
  plv := false
  encLast := false
  decDone := false
  st := 0
  err := 0
  info := 0
  fault := 0
  pay := []
  fb := none
  out := []
  img := []
  result := .none
  port := []

end Sys2Proof.Machine
end

