-- ==== Sys2Proof/Machine/Flags.lean ====
section
/-! DEFINITION. The codes of the result registers and the tests and values of the flags
(spec/10_state.md R33 to R38, spec/60_exceptions.md R270, R278, R279). -/

namespace Sys2Proof.Machine

/-- The value of `ST`, R279. Codes 7 to 15 are never written. -/
def Status.code : Status → BitVec 4
  | .ok => 0#4
  | .advance => 1#4
  | .terminal => 2#4
  | .retry => 3#4
  | .error => 4#4
  | .fatal => 5#4
  | .refused => 6#4

/-- The value of `ERR`, and of `FAULT` for a fatal error, R270. Codes 6 and 7 are never written. -/
def ErrorKind.code : ErrorKind → BitVec 3
  | .none => 0#3
  | .invalidBitLength => 1#3
  | .checksumMismatch => 2#3
  | .malformedFrame => 3#3
  | .captureFailure => 4#3
  | .geometryMisconfiguration => 5#3

/-- The value of `INFO` for a refusal, R278. -/
def RefuseReason.code : RefuseReason → BitVec 8
  | .illegalCommand => 1#8
  | .faulted => 2#8
  | .notConfigured => 3#8
  | .alreadyConfigured => 4#8
  | .noPayload => 5#8
  | .alreadyLoaded => 6#8
  | .streamClosed => 7#8
  | .badOperand => 8#8

/-- The value of `ST` for an error of a severity, R279: `FATAL`, `RETRY` or `ERROR`. -/
def Severity.status : Severity → Status
  | .fatal => .fatal
  | .recoverable => .retry
  | .report => .error

/-- `FAULT` after an error, R276, R277, R271 and R38: a fatal error's code where `FAULT` was 0, else
unchanged. -/
def faultAfter (sev : Severity) (e : ErrorKind) (fault : BitVec 3) : BitVec 3 :=
  match sev with
  | .fatal => if fault = 0#3 then e.code else fault
  | .recoverable => fault
  | .report => fault

/-- Test 4 of R278: the ops that need no configuration are `RST`, `CFG`, `DIG` and `CLS`. -/
def needsConfig : Instr → Bool
  | .rst => false
  | .cfg _ _ _ _ _ _ _ _ => false
  | .geoPt _ _ => true
  | .geoRect => true
  | .geoPitch => true
  | .dig _ => false
  | .cls _ => false
  | .encLoad _ => true
  | .encNext => true
  | .decFrame => true

/-- Tests 5 to 9 of R278: the test that concerns one op only. -/
def ownTest (i : Instr) (s : State) : Option RefuseReason :=
  match i with
  | .rst => none
  | .cfg _ _ _ _ _ _ _ _ => if s.cfgv then some .alreadyConfigured else none
  | .geoPt row col => if s.rows ≤ row ∨ s.cols ≤ col then some .badOperand else none
  | .geoRect => none
  | .geoPitch => none
  | .dig _ => none
  | .cls _ => none
  | .encLoad _ => if s.plv then some .alreadyLoaded else none
  | .encNext => if s.plv then none else some .noPayload
  | .decFrame => if s.decDone then some .streamClosed else none

/-- R278: the admission tests of a decoded op, in their order; `none` is "admitted". Test 1 (a
reserved command word) is the decoder's. -/
def admission (i : Instr) (s : State) : Option RefuseReason :=
  match i with
  | .rst => none
  | i =>
    if s.fault ≠ 0#3 then some .faulted
    else if s.cfgv = false ∧ needsConfig i = true then some .notConfigured
    else ownTest i s

/-- `ENC_LAST` of an emitted frame, R35 and R193: 1 exactly when it carries fewer than `DB` bytes, so
that its data region has a `Pad` cell. -/
def encLastFlag (n db : Nat) : Bool := n < db

/-- `DEC_DONE` after an accepted frame, R36 and R229: set when its data region held a `Pad` cell,
else unchanged. -/
def decDoneFlag (npad : Nat) (before : Bool) : Bool := npad > 0 || before

/-- `ST` of an accepted frame, R229. -/
def acceptStatus (npad : Nat) : Status := if npad > 0 then .terminal else .advance

end Sys2Proof.Machine
end

