-- ==== Sys2Proof/Config.lean ====
section
/-! DEFINITION. What the source fixes for every implementation (spec/00_scope.md R6), what an
implementation fixes for itself (R8), and the one free value of the model. -/

namespace Sys2Proof.Config

/-- `DIGEST_BITS`, R6: the length of a digest and of the checksum region. -/
abbrev digestBits : Nat := 256

/-- `T_PAD_LO`, R6: the lowest intensity classified `Pad`. -/
abbrev tPadLo : Nat := 80

/-- `T_PAD_HI`, R6: the lowest intensity above the `Pad` band. -/
abbrev tPadHi : Nat := 90

/-- `T_ONE`, R6: the lowest intensity classified `One`. -/
abbrev tOne : Nat := 128

/-- `BYTE_BITS`, R6: bits per payload byte, the alignment unit of the digest input. -/
abbrev byteBits : Nat := 8

/-- The port limits R8 leaves OPEN: `none` is "unbounded". They bound what a host can present
(`Instr.wf`), and no rule of the block tests them (log entry 4). The lower bounds R8 gives them are
`Config.Limits.legal` (WellFormed.lean). `OUT_MAX` is unbounded in the spec. -/
structure Limits where
  /-- `DIM_W`, the width in bits of `rows`, `cols`, `row`, `col`. -/
  dimW : Option Nat
  /-- `COORD_W`, the width in bits of a pixel coordinate. -/
  coordW : Option Nat
  /-- `PLEN_MAX`, the longest payload in bytes that `ENC.LOAD` takes. -/
  plenMax : Option Nat
  /-- `DIG_MAX`, the longest bit string that `DIG` takes. -/
  digMax : Option Nat
  deriving DecidableEq, Repr

/-- The reading in which every limit is absent: R8 allows unbounded naturals. -/
def Limits.unbounded : Limits := { dimW := none, coordW := none, plenMax := none, digMax := none }

/-- The render surface's three intensities, R8 and R100, as the capture sees them. They are OPEN,
bound only by `Machine.renderOk` (Machine/Protocol.lean). -/
structure Render where
  vZero : Byte
  vOne : Byte
  vPad : Byte
  deriving DecidableEq, Repr

/-- FREE VALUE, DESIGN CHOICE (log entry 7), safe. SHA-256 of a byte string of 2^64 bits or more:
R165 requires a shorter message and gives no hash for this one. It is a function of the message
only, because `Digest` is deterministic (R160), and nothing else is known of it. -/
opaque oversizeHash : List Byte → BitVec 256

end Sys2Proof.Config
end

