-- ==== Sys2Proof/Machine/Operands.lean ====
section
/-! DEFINITION. How operands are assembled (spec/30_encoding.md R102): bytes to bits and back, bits
to cells and back, cell codes, cell indices to grid positions, grid positions to sample points and
image addresses (spec/20_memory.md R60 to R63, R66; spec/41_grid_geometry.md R142). -/

namespace Sys2Proof.Machine

/-- `Bits8`, R60: the bits of a byte, most significant first. -/
def bits8 (x : Byte) : List Bit :=
  [x.getLsbD 7, x.getLsbD 6, x.getLsbD 5, x.getLsbD 4,
   x.getLsbD 3, x.getLsbD 2, x.getLsbD 1, x.getLsbD 0]

/-- `Unpack`, R61: the bits of a byte string, bytes in order. -/
def unpack : List Byte → List Bit
  | [] => []
  | x :: xs => bits8 x ++ unpack xs

/-- The number a bit string is read as, its first bit most significant (R10). -/
def bitsToNat (b : List Bit) : Nat := b.foldl (fun n x => 2 * n + x.toNat) 0

/-- `Pack`, R62: each eight bits are one byte, the first its most significant. No rule applies it to
a length that is not a multiple of 8; there the bits left over give no byte. -/
def pack : List Bit → List Byte
  | b7 :: b6 :: b5 :: b4 :: b3 :: b2 :: b1 :: b0 :: rest =>
      BitVec.ofNat 8 (bitsToNat [b7, b6, b5, b4, b3, b2, b1, b0]) :: pack rest
  | _ => []

/-- `CellOfBit`, R11. -/
def cellOfBit (b : Bit) : Cell := if b then .one else .zero

/-- `BitOfCell`, R11: not defined on `Pad`. -/
def bitOfCell : Cell → Option Bit
  | .zero => some false
  | .one => some true
  | .pad => none

/-- The two-bit cell code, R95. -/
def cellCode : Cell → BitVec 2
  | .zero => 0b00
  | .one => 0b01
  | .pad => 0b10

/-- The cell a two-bit code stands for, R95: `11` is reserved. -/
def cellOfCode (x : BitVec 2) : Option Cell :=
  if x = 0b00 then some .zero else if x = 0b01 then some .one
  else if x = 0b10 then some .pad else none

/-- `DB = D div 8`, R7 and R28: the data capacity of a frame in bytes. -/
def State.db (s : State) : Nat := s.d / Config.byteBits

/-- The grid position of a cell index, R73 and R96: row-major. -/
def State.gridPos (s : State) (k : Nat) : Nat × Nat := (k / s.cols, k % s.cols)

/-- The cell index of a grid position, R96. -/
def State.cellIndex (s : State) (row col : Nat) : Nat := row * s.cols + col

/-- `SamplePt`, R142: the truncated centre of a cell, in absolute display coordinates. -/
def State.samplePt (s : State) (row col : Nat) : Nat × Nat :=
  (s.tlx + ((2 * col + 1) * s.w) / (2 * s.cols), s.tly + ((2 * row + 1) * s.h) / (2 * s.rows))

/-- `Sample(k)`, R142, and the read of the table `GT[k]`, R43 and R68. -/
def State.gt (s : State) (k : Nat) : Nat × Nat := s.samplePt (s.gridPos k).1 (s.gridPos k).2

/-- R66 and 90_conflicts.md C4: the image offset of the sample point of cell `k`. -/
def State.sampleOffset (s : State) (k : Nat) : Nat × Nat :=
  ((s.gt k).1 - s.tlx, (s.gt k).2 - s.tly)

end Sys2Proof.Machine
end

