-- ==== Sys2Proof/Machine/Ops.lean ====
section
/-! DEFINITION. The named operations over memory and registers that the meanings share: memory in
its canonical form, the access primitives (spec/20_memory.md R65 to R68), and the four ways an op
ends (spec/60_exceptions.md R276 to R279): completing, being refused, raising an error, restarting. -/

namespace Sys2Proof.Machine

/-! ## Memory -/

/-- What an unlisted address reads as (log entry 5). Every address that exists and is not listed holds
a byte 0; an address at or above PLEN, or outside the image, does not exist and is never read. -/
def Memory.unlisted : Byte := 0

/-- The byte at an address. -/
def Memory.read : Memory → Nat → Byte
  | [], _ => Memory.unlisted
  | (k, v) :: m, a => if k = a then v else Memory.read m a

/-- Writes one byte, keeping the canonical form. -/
def Memory.write : Memory → Nat → Byte → Memory
  | [], a, b => if b = Memory.unlisted then [] else [(a, b)]
  | (k, v) :: m, a, b =>
      if a < k then (if b = Memory.unlisted then (k, v) :: m else (a, b) :: (k, v) :: m)
      else if a = k then (if b = Memory.unlisted then m else (a, b) :: m)
      else (k, v) :: Memory.write m a b

/-- Writes a byte string at consecutive rising addresses. -/
def Memory.store : Memory → Nat → List Byte → Memory
  | m, _, [] => m
  | m, a, b :: bs => Memory.store (Memory.write m a b) (a + 1) bs

/-- The bytes at `n` consecutive addresses from `a`. -/
def Memory.slice (m : Memory) (a n : Nat) : List Byte :=
  (List.range n).map fun j => Memory.read m (a + j)

/-- The canonical form: addresses strictly rising, no byte equal to what an unlisted address reads as. -/
abbrev Memory.wf (m : Memory) : Prop :=
  m.Pairwise (fun x y => x.1 < y.1) ∧ ∀ x ∈ m, x.2 ≠ Memory.unlisted

/-- `f a, f (a+1), …` for `n` arguments, if every one of them has a value. -/
def collect {α : Type} (f : Nat → Option α) : Nat → Nat → Option (List α)
  | _, 0 => some []
  | a, n + 1 =>
    match f a, collect f (a + 1) n with
    | some x, some xs => some (x :: xs)
    | _, _ => none

/-- `MemRead(PAY, i)`, R65, for `0 ≤ i < PLEN`; other addresses do not exist. -/
def State.readPay (s : State) (i : Nat) : Option Byte :=
  if i < s.plen then some (s.pay.read i) else none

/-- `MemRead(IMG, (dx, dy))`, R66, for `0 ≤ dx < W`, `0 ≤ dy < H`; other pixels do not exist. -/
def State.readImg (s : State) (dx dy : Nat) : Option Byte :=
  if dx < s.w ∧ dy < s.h then some (s.img.read (dy * s.w + dx)) else none

/-- R191: the payload memory and its registers after a load. -/
def State.loadPayload (s : State) (bytes : List Byte) : State :=
  { s with pay := Memory.store [] 0 bytes, plen := bytes.length, encOff := 0, encLast := false,
           plv := true }

/-- R193: `FB[k] <- F[k]` for every cell, and the offset and flag of the emitted frame. -/
def State.emitFrame (s : State) (frame : List Cell) (n : Nat) : State :=
  { s with fb := some frame, encOff := s.encOff + n, encLast := encLastFlag n s.db }

/-- `OutAppend`, R67: appends a byte string to the output sink. -/
def State.outAppend (s : State) (bytes : List Byte) : State :=
  { s with out := s.out.store s.outLen bytes, outLen := s.outLen + bytes.length }

/-- R122: the configuration registers after a successful `CFG`, all twelve and `CFGV`. -/
def State.latchConfig (s : State) (rows cols tlx tly trx try_ blx bly : Nat) : State :=
  { s with rows := rows, cols := cols, tlx := tlx, tly := tly, trx := trx, try_ := try_,
           blx := blx, bly := bly, c := rows * cols, d := rows * cols - Config.digestBits,
           w := trx - tlx, h := bly - tly, cfgv := true }

/-- The payload as a byte string, R39. -/
def State.payload (s : State) : List Byte := s.pay.slice 0 s.plen

/-- The output sink as a byte string, R42. -/
def State.output (s : State) : List Byte := s.out.slice 0 s.outLen

/-! ## How an op ends -/

/-- The three result registers and the result port, written by every op when it ends (R37, R279). -/
def State.finish (s : State) (st : Status) (e : ErrorKind) (info : BitVec 8) (r : Result) : State :=
  { s with st := st.code, err := e.code, info := info, result := r }

/-- An op other than `DEC.FRAME` completes: `ST <- OK ; ERR <- None ; INFO <- 0` (R279). -/
def State.complete (s : State) (r : Result) : State := s.finish .ok .none 0#8 r

/-- R278: a refused op writes only `ST <- REFUSED`, `ERR <- 0`, `INFO <- ` the reason. -/
def State.refuse (s : State) (why : RefuseReason) : State := s.finish .refused .none why.code .none

/-- Taking an exception: the ONE entry for every error of every severity (R276, R277, R271). None of
the op's writes happen; `FAULT` records a fatal error; the result registers say what and why. There
is no vector, no handler, no saved state and no mode change (R276). -/
def State.raiseError (s : State) (sev : Severity) (e : ErrorKind) (info : BitVec 8) : State :=
  { s with fault := faultAfter sev e s.fault }.finish sev.status e info .none

/-- The return from a fatal error, R281, and the effect of reset, R120: every piece of the block's
state at its reset value. The image and the host's further ops are not state of the block. -/
def State.restart (s : State) : State := { State.reset with img := s.img, port := s.port }

/-- R278: an op is refused by the first admission test that applies, else performed. -/
def performed (i : Instr) (s : State) (body : Host.Outcome State Fault Refusal) :
    Host.Outcome State Fault Refusal :=
  match admission i s with
  | some why => .next (s.refuse why)
  | none => body

end Sys2Proof.Machine
end

