-- ==== Sys2Proof/Machine/Sha256.lean ====
section
/-! DEFINITION. SHA-256 (spec/42_checksum_framer.md R164 to R170), which the spec supplies from
general knowledge and checked against a library (93_implementation_defined.md G1, U9; log entry 7). -/

namespace Sys2Proof.Machine.Sha

/-- `SHR^n`, R164. -/
def shr (n : Nat) (x : Word) : Word := x >>> n

/-- `ROTR^n`, R164, for `0 < n < 32`. -/
def rotr (n : Nat) (x : Word) : Word := (x >>> n) ||| (x <<< (32 - n))

/-- `x ⊕ y ⊕ z`, R164. -/
def xor3 (x y z : Word) : Word := x ^^^ y ^^^ z

/-- `Ch`, R164. -/
def ch (x y z : Word) : Word := (x &&& y) ^^^ (~~~x &&& z)

/-- `Maj`, R164. -/
def maj (x y z : Word) : Word := xor3 (x &&& y) (x &&& z) (y &&& z)

/-- `Σ0`, R164. -/
def bigSigma0 (x : Word) : Word := xor3 (rotr 2 x) (rotr 13 x) (rotr 22 x)

/-- `Σ1`, R164. -/
def bigSigma1 (x : Word) : Word := xor3 (rotr 6 x) (rotr 11 x) (rotr 25 x)

/-- `σ0`, R164. -/
def smallSigma0 (x : Word) : Word := xor3 (rotr 7 x) (rotr 18 x) (shr 3 x)

/-- `σ1`, R164. -/
def smallSigma1 (x : Word) : Word := xor3 (rotr 17 x) (rotr 19 x) (shr 10 x)

/-- The bytes of a number, `n` of them, big-endian (R64). -/
def beBytes : Nat → Nat → List Byte
  | 0, _ => []
  | n + 1, x => beBytes n (x / 256) ++ [BitVec.ofNat 8 x]

/-- The word four bytes are, read big-endian (R166). -/
def wordOfBytes (b0 b1 b2 b3 : Byte) : Word :=
  BitVec.ofNat 32 (b0.toNat * 2 ^ 24 + b1.toNat * 2 ^ 16 + b2.toNat * 2 ^ 8 + b3.toNat)

/-- The byte string cut into words, four bytes each, big-endian (R166). -/
def wordsOfBytes : List Byte → List Word
  | b0 :: b1 :: b2 :: b3 :: rest => wordOfBytes b0 b1 b2 b3 :: wordsOfBytes rest
  | _ => []

/-- The number of zero bytes of the padding, R165: `(55 − L) mod 64`. -/
def zeroBytes (len : Nat) : Nat := (119 - len % 64) % 64

/-- The padded message, R165: the bytes, `0x80`, zero bytes, and the length in bits on 8 bytes. -/
def padMessage (s : List Byte) : List Byte :=
  s ++ [0x80] ++ List.replicate (zeroBytes s.length) 0x00 ++ beBytes 8 (8 * s.length)

/-- The number of blocks, R165. -/
def blockCount (len : Nat) : Nat := (len + 8) / 64 + 1

/-- The blocks of a message of words, 16 words each, `n` of them (R166). -/
def blocks : Nat → List Word → List (List Word)
  | 0, _ => []
  | n + 1, ws => ws.take 16 :: blocks n (ws.drop 16)

/-- The eight words of a hash value or of the working variables `a … h` (R167, R169). -/
structure Regs where
  a : Word
  b : Word
  c : Word
  d : Word
  e : Word
  f : Word
  g : Word
  h : Word
  deriving DecidableEq, Repr

/-- The initial hash value, R167. -/
def initial : Regs where
  a := 0x6a09e667
  b := 0xbb67ae85
  c := 0x3c6ef372
  d := 0xa54ff53a
  e := 0x510e527f
  f := 0x9b05688c
  g := 0x1f83d9ab
  h := 0x5be0cd19

/-- The table of R168 line by line, each line one number whose eight base-2^32 digits, the first the
most significant, are the eight words of the line. -/
def roundConstantLines : List Nat :=
  [ 0x428a2f9871374491b5c0fbcfe9b5dba53956c25b59f111f1923f82a4ab1c5ed5,
    0xd807aa9812835b01243185be550c7dc372be5d7480deb1fe9bdc06a7c19bf174,
    0xe49b69c1efbe47860fc19dc6240ca1cc2de92c6f4a7484aa5cb0a9dc76f988da,
    0x983e5152a831c66db00327c8bf597fc7c6e00bf3d5a7914706ca635114292967,
    0x27b70a852e1b21384d2c6dfc53380d13650a7354766a0abb81c2c92e92722c85,
    0xa2bfe8a1a81a664bc24b8b70c76c51a3d192e819d6990624f40e3585106aa070,
    0x19a4c1161e376c082748774c34b0bcb5391c0cb34ed8aa4a5b9cca4f682e6ff3,
    0x748f82ee78a5636f84c878148cc7020890befffaa4506cebbef9a3f7c67178f2 ]

/-- The eight words of a line of the table. -/
def wordsOfLine (line : Nat) : List Word :=
  (List.range 8).map fun j => BitVec.ofNat 32 (line / 2 ^ (32 * (7 - j)))

/-- The round constants `K[0] … K[63]`, R168. -/
def roundConstants : List Word := roundConstantLines.flatMap wordsOfLine

/-- One word of the message schedule, R169, from the words before it, the latest first: `W[t−2]`,
`W[t−7]`, `W[t−15]` and `W[t−16]` stand at places 1, 6, 14 and 15. -/
def nextWord (latest : List Word) : Word :=
  smallSigma1 (latest.getD 1 0) + latest.getD 6 0 + smallSigma0 (latest.getD 14 0)
    + latest.getD 15 0

/-- `n` more words of the schedule, the latest first. -/
def extend : Nat → List Word → List Word
  | 0, latest => latest
  | n + 1, latest => extend n (nextWord latest :: latest)

/-- The message schedule `W[0] … W[63]` of a block, R169. -/
def schedule (block : List Word) : List Word := (extend 48 block.reverse).reverse

/-- One round, R169, with its constant and its schedule word; all eight assignments use the values
from before the round. -/
def round (r : Regs) (kw : Word × Word) : Regs :=
  let t1 := r.h + bigSigma1 r.e + ch r.e r.f r.g + kw.1 + kw.2
  let t2 := bigSigma0 r.a + maj r.a r.b r.c
  { a := t1 + t2, b := r.a, c := r.b, d := r.c, e := r.d + t1, f := r.e, g := r.f, h := r.g }

/-- The word-by-word sum of two hash values, R169. -/
def Regs.add (x y : Regs) : Regs where
  a := x.a + y.a
  b := x.b + y.b
  c := x.c + y.c
  d := x.d + y.d
  e := x.e + y.e
  f := x.f + y.f
  g := x.g + y.g
  h := x.h + y.h

/-- The processing of one block, R169. -/
def compress (hash : Regs) (block : List Word) : Regs :=
  ((roundConstants.zip (schedule block)).foldl round hash).add hash

/-- The hash value as bytes, R170: each word big-endian, `H0` first. -/
def Regs.bytes (r : Regs) : List Byte :=
  beBytes 4 r.a.toNat ++ beBytes 4 r.b.toNat ++ beBytes 4 r.c.toNat ++ beBytes 4 r.d.toNat ++
  beBytes 4 r.e.toNat ++ beBytes 4 r.f.toNat ++ beBytes 4 r.g.toNat ++ beBytes 4 r.h.toNat

/-- The hash of a message of fewer than 2^64 bits, R165 to R170. -/
def hashBytes (s : List Byte) : List Byte :=
  ((blocks (blockCount s.length) (wordsOfBytes (padMessage s))).foldl compress initial).bytes

/-- `Sha256`, R164 to R170: 32 bytes. R165 requires fewer than 2^64 bits; a longer message has the
free value `Config.oversizeHash` (log entry 7). -/
def sha256 (s : List Byte) : List Byte :=
  if 8 * s.length < 2 ^ 64 then hashBytes s
  else beBytes 32 (Config.oversizeHash s).toNat

end Sys2Proof.Machine.Sha
end

