-- ==== Sys2Proof/Machine/Checksum.lean ====
section
/-! DEFINITION. checksum_framer: the digest and the op `DIG` (spec/42_checksum_framer.md R160 to R163). -/

namespace Sys2Proof.Machine

/-- `Digest`, R161: `none` is the failure `InvalidBitLength`. -/
def digest (b : List Bit) : Option (List Bit) :=
  if b.length = 0 ∨ b.length % Config.byteBits ≠ 0 then none
  else some (unpack (Sha.sha256 (pack b)))

/-- `DIG`, R162. An illegal length is reported and nothing else happens. -/
def execDig (b : List Bit) (s : State) : Host.Outcome State Fault Refusal :=
  performed (.dig b) s <|
    match digest b with
    | none =>
      .next (s.raiseError .report .invalidBitLength (BitVec.ofNat 8 (b.length % Config.byteBits)))
    | some d => .next (s.complete (.digest d))

end Sys2Proof.Machine
end

