-- ==== Sys2Proof/Machine/Classifier.lean ====
section
/-! DEFINITION. pixel_classifier: the three-way thresholding and the op `CLS`
(spec/44_pixel_classifier.md R210 to R212). -/

namespace Sys2Proof.Machine

/-- `Classify`, R210: the `Pad` band is tested first. -/
def classify (v : Byte) : Cell :=
  if Config.tPadLo ≤ v.toNat ∧ v.toNat < Config.tPadHi then .pad
  else if v.toNat < Config.tOne then .zero
  else .one

/-- `CLS`, R212. -/
def execCls (v : Byte) (s : State) : Host.Outcome State Fault Refusal :=
  performed (.cls v) s (.next (s.complete (.cell (classify v))))

end Sys2Proof.Machine
end

