-- ==== Sys2Proof/Machine/Decoder.lean ====
section
/-! DEFINITION. frame_decoder: the stages and the op `DEC.FRAME` (spec/45_frame_decoder.md R220 to R235). -/

namespace Sys2Proof.Machine

/-- The intensity at the sample point of cell `k`, R222. -/
def State.sampleCell (s : State) (k : Nat) : Option Byte :=
  s.readImg (s.sampleOffset k).1 (s.sampleOffset k).2

/-- The classified tri-state string, R222 to R224: the `C` cells in index order. -/
def State.sampled (s : State) : Option (List Cell) :=
  (collect s.sampleCell 0 s.c).map (·.map classify)

/-- `valid`, R225: the bits of the non-`Pad` cells, in order. -/
def validBits (data : List Cell) : List Bit := data.filterMap bitOfCell

/-- `npad`, R225: the number of `Pad` cells. -/
def padCount (data : List Cell) : Nat := data.count .pad

/-- Checks A, B and C on the data region and the checksum region, in this order (R226 to R228, R231):
the error kind and sub-cause of the first that fails, or the valid bits. -/
def checkFrame (data chk : List Cell) : Except (ErrorKind × BitVec 8) (List Bit) :=
  if Cell.pad ∈ chk then .error (.malformedFrame, 1#8)
  else if (validBits data).length = 0 then .error (.malformedFrame, 2#8)
  else if (validBits data).length % Config.byteBits ≠ 0 then .error (.malformedFrame, 3#8)
  else if digest (validBits data) ≠ some (validBits chk) then .error (.checksumMismatch, 0#8)
  else .ok (validBits data)

/-- Acceptance, R229: the bytes are appended, and a `Pad` cell in the data region ends the stream. -/
def State.acceptFrame (s : State) (valid : List Bit) (npad : Nat) : State :=
  { s.outAppend (pack valid) with decDone := decDoneFlag npad s.decDone }.finish
    (acceptStatus npad) .none 0#8 (.appended (pack valid).length)

/-- What `DEC.FRAME` does with the tri-state string it sampled, R224 to R230. -/
def State.decodeCells (s : State) (t : List Cell) : State :=
  match checkFrame (t.take s.d) (t.drop s.d) with
  | .error (e, info) => s.raiseError .recoverable e info
  | .ok valid => s.acceptFrame valid (padCount (t.take s.d))

/-- `DEC.FRAME`, R221. -/
def execDecFrame (s : State) : Host.Outcome State Fault Refusal :=
  performed .decFrame s <|
    match s.sampled with
    | none => .fault .imagePixel
    | some t => .next (s.decodeCells t)

end Sys2Proof.Machine
end

