-- ==== Sys2Proof/Machine/Encoder.lean ====
section
/-! DEFINITION. frame_encoder: building a frame and the ops `ENC.LOAD` and `ENC.NEXT`
(spec/43_frame_encoder.md R190 to R197; the frame layout is spec/30_encoding.md R96 to R99). -/

namespace Sys2Proof.Machine

/-- `ENC.LOAD`, R191. `FB` is not touched. -/
def execEncLoad (bytes : List Byte) (s : State) : Host.Outcome State Fault Refusal :=
  performed (.encLoad bytes) s (.next ((s.loadPayload bytes).complete .none))

/-- `MakeFrame`, R192, for a data region of `d` cells: the payload bits, `Pad` up to `d` cells, and
the digest of the payload bits. It fails only where `Digest` does, on the empty byte string. -/
def makeFrame (d : Nat) (p : List Byte) : Option (List Cell) :=
  match digest (unpack p) with
  | none => none
  | some chk =>
    some ((unpack p).map cellOfBit ++ List.replicate (d - (unpack p).length) .pad ++
      chk.map cellOfBit)

/-- The number of payload bytes the next frame carries, R193: `min (PLEN − ENC_OFF) DB`. -/
def State.nextCount (s : State) : Nat := min (s.plen - s.encOff) s.db

/-- The payload bytes the next frame carries, R193, read byte by byte from PAY. -/
def State.nextBytes (s : State) : Option (List Byte) := collect s.readPay s.encOff s.nextCount

/-- `ENC.NEXT`, R193: the next frame into `FB`, or the fatal `InvalidBitLength` when no payload byte
is left (R195). -/
def execEncNext (s : State) : Host.Outcome State Fault Refusal :=
  performed .encNext s <|
    if s.nextCount = 0 then .next (s.raiseError .fatal .invalidBitLength 0#8)
    else
      match s.nextBytes with
      | none => .fault .payAddress
      | some p =>
        match makeFrame s.d p with
        | none => .next (s.raiseError .fatal .invalidBitLength 0#8)
        | some frame =>
          .next ((s.emitFrame frame s.nextCount).complete
            (.emitted s.nextCount (encLastFlag s.nextCount s.db)))

end Sys2Proof.Machine
end

