-- ==== Sys2Proof/Machine/Geometry.lean ====
section
/-! DEFINITION. grid_geometry: the ops `GEO.PT`, `GEO.RECT` and `GEO.PITCH`
(spec/41_grid_geometry.md R140 to R149). They read the configuration registers and nothing else. -/

namespace Sys2Proof.Machine

/-- `GEO.PT`, R147: the sample point of a grid position. -/
def execGeoPt (row col : Nat) (s : State) : Host.Outcome State Fault Refusal :=
  performed (.geoPt row col) s <|
    .next (s.complete (.point (s.samplePt row col).1 (s.samplePt row col).2))

/-- `GEO.RECT`, R148: the capture rectangle of R143. -/
def execGeoRect (s : State) : Host.Outcome State Fault Refusal :=
  performed .geoRect s (.next (s.complete (.rect s.tlx s.tly s.w s.h)))

/-- `GEO.PITCH`, R149: the pitch of R141 as unreduced fractions. -/
def execGeoPitch (s : State) : Host.Outcome State Fault Refusal :=
  performed .geoPitch s (.next (s.complete (.pitch s.w s.cols s.h s.rows)))

end Sys2Proof.Machine
end

