-- ==== Sys2Proof/Machine/System.lean ====
section
/-! DEFINITION. The system ops `RST` and `CFG` (spec/40_system_config.md R120 to R125). -/

namespace Sys2Proof.Machine

/-- `RST`, R120: always performed, in every state. -/
def execRst (s : State) : Host.Outcome State Fault Refusal :=
  performed .rst s (.next s.restart)

/-- The checks of `CFG`, R123, in their order: the number of the first that fails. `TRY` and `BLX`
take part in none (R124). -/
def cfgCheck (rows cols tlx tly trx bly : Nat) : Option (BitVec 8) :=
  if ¬(1 ≤ rows ∧ 1 ≤ cols) then some 1#8
  else if ¬(Config.digestBits < rows * cols) then some 2#8
  else if ¬((rows * cols - Config.digestBits) % Config.byteBits = 0) then some 3#8
  else if ¬(tlx < trx) then some 4#8
  else if ¬(tly < bly) then some 5#8
  else none

/-- `CFG`, R122: all configuration registers and `CFGV`, or a fatal `GeometryMisconfiguration`. -/
def execCfg (rows cols tlx tly trx try_ blx bly : Nat) (s : State) :
    Host.Outcome State Fault Refusal :=
  performed (.cfg rows cols tlx tly trx try_ blx bly) s <|
    match cfgCheck rows cols tlx tly trx bly with
    | some i => .next (s.raiseError .fatal .geometryMisconfiguration i)
    | none => .next ((s.latchConfig rows cols tlx tly trx try_ blx bly).complete .none)

end Sys2Proof.Machine
end

