-- ==== Sys2Proof/Machine/Dispatch.lean ====
section
/-! DEFINITION. One arm per op of the table (spec/30_encoding.md R91), each one call of its meaning. -/

namespace Sys2Proof.Machine

def exec (i : Instr) (s : State) : Host.Outcome State Fault Refusal :=
  match i with
  | .rst => Sys2Proof.Machine.execRst s
  | .cfg rows cols tlx tly trx try_ blx bly => Sys2Proof.Machine.execCfg rows cols tlx tly trx try_ blx bly s
  | .geoPt row col => Sys2Proof.Machine.execGeoPt row col s
  | .geoRect => Sys2Proof.Machine.execGeoRect s
  | .geoPitch => Sys2Proof.Machine.execGeoPitch s
  | .dig b => Sys2Proof.Machine.execDig b s
  | .cls v => Sys2Proof.Machine.execCls v s
  | .encLoad bytes => Sys2Proof.Machine.execEncLoad bytes s
  | .encNext => Sys2Proof.Machine.execEncNext s
  | .decFrame => Sys2Proof.Machine.execDecFrame s

end Sys2Proof.Machine
end

