-- ==== Sys2Proof/Machine/Step.lean ====
section
/-! DEFINITION. One step of the machine: the op the host presents next (spec/00_scope.md R13,
spec/30_encoding.md R90 to R93, log entry 1). -/

namespace Sys2Proof.Machine

/-- The host presents a request: it leaves the list of further ops, and its image is the one that a
`DEC.FRAME` reads (R41, R66). -/
def State.take (s : State) (r : Request) (rest : List Request) : State :=
  { s with img := r.img, port := rest }

/-- One step: the op presented on the command port, performed whole (R13). A reserved command word is
refused (R93). With nothing presented the block is idle and keeps all state (60_exceptions.md R284). -/
def step (s : State) : Host.Outcome State Fault Refusal :=
  match s.port with
  | [] => .next s
  | r :: rest =>
    match decode r.cmd r.operands with
    | .ok i => exec i (s.take r rest)
    | .error (.illegalCommand _) => .next ((s.take r rest).refuse .illegalCommand)

/-- `s` with the instruction of opcode_table.json's numbering `w` presented next: its command word is
the first byte, every operand is 0 or empty, and the image lists no pixel (log entry 1). -/
def State.withFetchWord (s : State) (_nbits w : Nat) : State :=
  { s with port := { cmd := BitVec.ofNat 8 w, operands := {}, img := [] } :: s.port }

end Sys2Proof.Machine
end

