-- ==== Sys2Proof/Machine/Protocol.lean ====
section
/-! DEFINITION. The two hosts at their interface to the block (spec/46_sync_protocol.md R250 to R259),
the intensity contract of the render surface (spec/30_encoding.md R100), and the pseudo-ops `ENC.ALL`
and `XFER`. Nothing here is an op: the block does none of it by itself (log entries 12 and 13). -/

namespace Sys2Proof.Machine

/-! ## The intensity contract -/

/-- The intensity the render surface shows a cell with, R100. -/
def intensityOf (r : Config.Render) : Cell → Byte
  | .zero => r.vZero
  | .one => r.vOne
  | .pad => r.vPad

/-- The contract of R100 and R8: each of the three intensities is classified as its own cell. -/
def renderOk (r : Config.Render) : Bool :=
  classify r.vZero = .zero && classify r.vOne = .one && classify r.vPad = .pad

/-- The image in the capture port shows the tri-state string `frame` as the decoder of `s` reads it:
R213, "the intensity captured at `Sample(k)` classifies to the cell", for every cell index. -/
abbrev State.shows (s : State) (frame : List Cell) : Prop :=
  frame.length = s.c ∧ ∀ k < s.c, (s.sampleCell k).map classify = frame[k]?

/-- An image with the cells of a tri-state string painted at their sample points, from cell `k` on;
where sample points coincide (R124) the later cell stands. -/
def State.paintFrom (s : State) (r : Config.Render) : Memory → Nat → List Cell → Memory
  | m, _, [] => m
  | m, k, x :: xs =>
    s.paintFrom r
      (m.write ((s.sampleOffset k).2 * s.w + (s.sampleOffset k).1) (intensityOf r x)) (k + 1) xs

/-- The faithful image of a tri-state string over a background, R259 (`chan0`) and 95_test_vectors.md
(`img`): "every other pixel is arbitrary", so the background is any image. -/
def State.faithfulImage (s : State) (r : Config.Render) (background : Memory) (frame : List Cell) :
    Memory :=
  s.paintFrom r background 0 frame

/-! ## The encoder side -/

/-- `ENC.ALL`, R258, for at most `fuel` ops: `ENC.NEXT` repeated, each frame recorded, until the last
one was terminal or no payload byte is left; an op that does not complete ends it. -/
def encAllFrom : Nat → State → Host.Outcome (List (List Cell) × State) Fault Refusal
  | 0, s => .next ([], s)
  | fuel + 1, s =>
    if s.encOff = s.plen then .next ([], s)
    else
      match exec .encNext s with
      | .fault f => .fault f
      | .refused r => .refused r
      | .next t =>
        if t.st ≠ Status.ok.code then .next ([], t)
        else if t.encLast then .next (t.fb.toList, t)
        else
          match encAllFrom fuel t with
          | .fault f => .fault f
          | .refused r => .refused r
          | .next (frames, u) => .next (t.fb.toList ++ frames, u)

/-- `ENC.ALL`, R258: every frame carries a byte at least, so PLEN ops are enough. -/
def encAll (s : State) : Host.Outcome (List (List Cell) × State) Fault Refusal :=
  encAllFrom s.plen s

/-! ## The decoder side and a whole transfer -/

/-- What the decoder-side host does after a `DEC.FRAME`, R251. -/
inductive HostMove where
  /-- `ADVANCE`: send the advance signal and loop. -/
  | sendAdvance
  /-- `TERMINAL`: stop without sending it. -/
  | stop
  /-- `RETRY`: loop without sending it. -/
  | captureAgain
  /-- Any other outcome: the op was not performed, and the run has failed (R255). -/
  | giveUp
  deriving DecidableEq, Repr

/-- R251: the host acts on `ST` alone. -/
def hostMove (st : BitVec 4) : HostMove :=
  if st = Status.advance.code then .sendAdvance
  else if st = Status.terminal.code then .stop
  else if st = Status.retry.code then .captureAgain
  else .giveUp

/-- How far a transfer has come, R260. -/
inductive Phase where
  /-- The decoder-side loop goes on. -/
  | running
  /-- The terminal frame was accepted: `DEC_DONE = 1`. -/
  | finished
  /-- `RETRY_MAX` consecutive retries: the host gave up (R257). -/
  | stalled
  /-- The host stopped on an external stop signal (R255, R257, R260). -/
  | stopped
  /-- A `DEC.FRAME` was not performed. -/
  | failed
  deriving DecidableEq, Repr

/-- Everything a transfer meets that is neither of the two instances: inputs, none of them state. -/
structure Outside where
  /-- The channel, R259: the image of a capture from its number and from what `FB` holds; `none` is
  "no value" (R40). -/
  channel : Nat → Option (List Cell) → Memory
  /-- `RETRY_MAX`, R257: `none` is the reference behaviour, no limit. What `some 0` does is the model's
  choice (`retryPhase`, log entry 13). -/
  retryMax : Option Nat
  /-- The external stop signal (R255: "stop at any time") reaches the decoder-side host before the
  capture of this number. -/
  stopsBeforeCapture : Nat → Bool
  /-- It reaches the host after the `DEC.FRAME` of this number has accepted a frame, before the advance
  signal is sent. -/
  stopsBeforeAdvance : Nat → Bool

/-- A transfer, R259: two instances of the block that share no state, the number of the next capture,
and the host's count of consecutive retries. -/
structure Transfer where
  enc : State
  dec : State
  iter : Nat
  retries : Nat
  phase : Phase
  deriving DecidableEq, Repr

/-- The phase after one more `RETRY`, `retries` of them in a row by now: R257 stops the host at
`RETRY_MAX` consecutive ones. DESIGN CHOICE: R257 gives `RETRY_MAX` no range and does not say what 0
means; the bound is tested only here, once a `RETRY` has been counted, so a host with `RETRY_MAX = 0`
makes its first capture and stops after its first `RETRY`, as one with `RETRY_MAX = 1` does (log
entry 13). -/
def retryPhase (retryMax : Option Nat) (retries : Nat) : Phase :=
  match retryMax with
  | none => .running
  | some m => if m ≤ retries then .stalled else .running

/-- What the hosts do after the `DEC.FRAME` of an iteration has left the decoder's instance in `d`,
R251. The advance signal is acted on at once, before the next capture (R259). -/
def Transfer.act (o : Outside) (t : Transfer) (d : State) : Host.Outcome Transfer Fault Refusal :=
  match hostMove d.st with
  | .sendAdvance =>
    if o.stopsBeforeAdvance t.iter then
      .next { t with dec := d, iter := t.iter + 1, phase := .stopped }
    else
      match exec .encNext t.enc with
      | .fault f => .fault f
      | .refused r => .refused r
      | .next e => .next { t with enc := e, dec := d, iter := t.iter + 1, retries := 0 }
  | .stop => .next { t with dec := d, iter := t.iter + 1, phase := .finished }
  | .captureAgain =>
    .next { t with dec := d, iter := t.iter + 1, retries := t.retries + 1,
                   phase := retryPhase o.retryMax (t.retries + 1) }
  | .giveUp => .next { t with dec := d, iter := t.iter + 1, phase := .failed }

/-- One iteration of `XFER`, R251 and R259: a capture, a `DEC.FRAME`, and what the hosts do on its
`ST`; or the end of the loop on an external stop signal. -/
def Transfer.step (o : Outside) (t : Transfer) : Host.Outcome Transfer Fault Refusal :=
  match t.phase with
  | .running =>
    if o.stopsBeforeCapture t.iter then .next { t with phase := .stopped }
    else
      match exec .decFrame { t.dec with img := o.channel t.iter t.enc.fb } with
      | .fault f => .fault f
      | .refused r => .refused r
      | .next d => t.act o d
  | .finished => .next t
  | .stalled => .next t
  | .stopped => .next t
  | .failed => .next t

/-- The start of `XFER`, R259 and R253: the first frame is shown without any advance signal. -/
def Transfer.start (enc dec : State) : Host.Outcome Transfer Fault Refusal :=
  match exec .encNext enc with
  | .fault f => .fault f
  | .refused r => .refused r
  | .next e => .next { enc := e, dec := dec, iter := 1, retries := 0, phase := .running }

/-- `n` iterations of `XFER`. -/
def Transfer.run (o : Outside) : Nat → Transfer → Host.Outcome Transfer Fault Refusal
  | 0, t => .next t
  | n + 1, t =>
    match t.step o with
    | .fault f => .fault f
    | .refused r => .refused r
    | .next u => Transfer.run o n u

/-- R260: "a run has ended well when `DEC_DONE = 1`". -/
def Transfer.endedWell (t : Transfer) : Prop := t.dec.decDone = true

/-- R260: a run has ended badly "when `FAULT ≠ 0`, when the host gave up (`RETRY_MAX` or an external
stop)"; a run that never ends stays in the phase `running`. -/
def Transfer.endedBadly (t : Transfer) : Prop :=
  t.dec.fault ≠ 0#3 ∨ t.phase = .stalled ∨ t.phase = .stopped

/-- The faithful channel `chan0`, R259, into the decoder `dec`, over any background, one for each
capture; with nothing in `FB` no cell is shown. -/
def faithfulChannel (dec : State) (r : Config.Render) (background : Nat → Memory) (iter : Nat)
    (fb : Option (List Cell)) : Memory :=
  match fb with
  | none => background iter
  | some frame => dec.faithfulImage r (background iter) frame

/-- A transfer over the faithful channel that no external signal stops. -/
def faithful (dec : State) (r : Config.Render) (background : Nat → Memory)
    (retryMax : Option Nat) : Outside :=
  { channel := faithfulChannel dec r background, retryMax := retryMax,
    stopsBeforeCapture := fun _ => false, stopsBeforeAdvance := fun _ => false }

end Sys2Proof.Machine
end

