-- ==== Sys2Proof/Safety.lean ====
section
/-! DEFINITION. What a state of the block satisfies in every run from reset: the constraints the spec
puts on the registers and memories of spec/10_state.md. Statements that could fail only in states no
run reaches take these as premises, and that every step keeps them is stated on its own. -/

namespace Sys2Proof.Machine

/-- R22 to R29 and R123: the configuration registers of a configured block, and of one that is not. -/
def State.ConfigInv (s : State) : Prop :=
  (s.cfgv = true →
    1 ≤ s.rows ∧ 1 ≤ s.cols ∧ s.c = s.rows * s.cols ∧ 256 < s.c ∧ s.d = s.c - 256 ∧ s.d % 8 = 0 ∧
    s.tlx < s.trx ∧ s.tly < s.bly ∧ s.w = s.trx - s.tlx ∧ s.h = s.bly - s.tly) ∧
  (s.cfgv = false →
    s.rows = 0 ∧ s.cols = 0 ∧ s.tlx = 0 ∧ s.tly = 0 ∧ s.trx = 0 ∧ s.try_ = 0 ∧ s.blx = 0 ∧
    s.bly = 0 ∧ s.c = 0 ∧ s.d = 0 ∧ s.w = 0 ∧ s.h = 0)

/-- R39, R42 and log entry 5: every memory is canonical, and PAY and OUT hold nothing beyond their
lengths. -/
def State.MemoryInv (s : State) : Prop :=
  s.pay.wf ∧ s.out.wf ∧ s.img.wf ∧ (∀ r ∈ s.port, r.img.wf) ∧
  (∀ x ∈ s.pay, x.1 < s.plen) ∧ (∀ x ∈ s.out, x.1 < s.outLen)

/-- R30, R31, R34, R35, R40 and R195: the encoder's registers. While no payload is loaded the encoder
half is at its reset values; `ENC_OFF` never passes `PLEN`; a terminal frame is the last one. -/
def State.EncoderInv (s : State) : Prop :=
  s.encOff ≤ s.plen ∧
  (s.plv = true → s.cfgv = true) ∧
  (s.plv = false → s.plen = 0 ∧ s.pay = [] ∧ s.encLast = false ∧ s.fb = none) ∧
  (s.encLast = true → s.encOff = s.plen) ∧
  (s.fb = none → s.encOff = 0 ∧ s.encLast = false)

/-- R40, R192 and R193: `FB` holds the frame made of the payload bytes just before `ENC_OFF`, `n` of
them, and `ENC_LAST` says whether it is terminal. -/
def State.FrameInv (s : State) : Prop :=
  ∀ frame, s.fb = some frame →
    ∃ n, 1 ≤ n ∧ n ≤ s.d / 8 ∧ n ≤ s.encOff ∧
      makeFrame s.d (s.pay.slice (s.encOff - n) n) = some frame ∧
      s.encLast = decide (n < s.d / 8)

/-- R32, R33 and R36: without a configuration the decoder is at its reset values, and a closed stream
has appended a byte at least (R67). -/
def State.DecoderInv (s : State) : Prop :=
  (s.cfgv = false → s.outLen = 0 ∧ s.decDone = false) ∧ (s.decDone = true → 1 ≤ s.outLen)

/-- R270, R276 and R279: the codes that are ever written, and what a fatal error says of the state:
code 5 comes from a failed `CFG`, code 1 from `ENC.NEXT` with no payload byte left. -/
def State.CodesInv (s : State) : Prop :=
  s.st.toNat ≤ 6 ∧ s.err ∈ [0#3, 1#3, 2#3, 3#3, 5#3] ∧ s.fault ∈ [0#3, 1#3, 5#3] ∧
  (s.fault = 5#3 → s.cfgv = false) ∧ (s.fault = 1#3 → s.plv = true ∧ s.encOff = s.plen)

/-- What every state reached from reset satisfies. -/
structure State.Inv (s : State) : Prop where
  config : s.ConfigInv
  memory : s.MemoryInv
  encoder : s.EncoderInv
  frame : s.FrameInv
  decoder : s.DecoderInv
  codes : s.CodesInv

/-- A safe answer of a step: a next state (no access to an address that does not exist). -/
def Safe (o : Host.Outcome State Fault Refusal) : Prop := ∃ t, o = .next t

end Sys2Proof.Machine
end

