-- ==== Sys2Proof/WellFormed.lean ====
section
/-! DEFINITION. Which ops a host can present: every operand within its port's width
(spec/30_encoding.md R94, spec/00_scope.md R8), and which limits R8 lets an implementation have. "An operand outside its port's width cannot be
presented, so no rule treats it": the machine does not test this (log entry 4). -/

namespace Sys2Proof

/-- `n` fits a port of `width` bits; an absent width is unbounded. -/
def fitsWidth (width : Option Nat) (n : Nat) : Bool :=
  match width with
  | none => true
  | some k => n < 2 ^ k

/-- `n` is within a maximum; an absent maximum is unbounded. -/
def withinMax (max : Option Nat) (n : Nat) : Bool :=
  match max with
  | none => true
  | some m => n ≤ m

/-- R94 and R8: every operand of the op is within its port's limit. -/
def Instr.wf (lim : Config.Limits) : Instr → Bool
  | .rst => true
  | .cfg rows cols tlx tly trx try_ blx bly =>
      fitsWidth lim.dimW rows && fitsWidth lim.dimW cols &&
      fitsWidth lim.coordW tlx && fitsWidth lim.coordW tly &&
      fitsWidth lim.coordW trx && fitsWidth lim.coordW try_ &&
      fitsWidth lim.coordW blx && fitsWidth lim.coordW bly
  | .geoPt row col => fitsWidth lim.dimW row && fitsWidth lim.dimW col
  | .geoRect => true
  | .geoPitch => true
  | .dig b => withinMax lim.digMax b.length
  | .cls _ => true
  | .encLoad s => withinMax lim.plenMax s.length
  | .encNext => true
  | .decFrame => true

/-- R8, `DIM_W`: "at least 8 (the example has 160 columns)". -/
def Config.Limits.dimOk (lim : Config.Limits) : Prop := ∀ k, lim.dimW = some k → 8 ≤ k

/-- R8, `COORD_W`: "at least 11 to hold the source's own example (1603)". -/
def Config.Limits.coordOk (lim : Config.Limits) : Prop := ∀ k, lim.coordW = some k → 11 ≤ k

/-- R8, `DIG_MAX`: "at least `D` of the largest configuration". A configuration is a pair of dimensions
that the ports can present and the checks of R123 on them accept; where `DIM_W` is unbounded there is
no largest one, and only an unbounded `DIG_MAX` is at least every `D`. -/
def Config.Limits.digOk (lim : Config.Limits) : Prop :=
  ∀ rows cols, fitsWidth lim.dimW rows = true → fitsWidth lim.dimW cols = true →
    Config.digestBits < rows * cols → (rows * cols - Config.digestBits) % Config.byteBits = 0 →
    withinMax lim.digMax (rows * cols - Config.digestBits) = true

/-- R8: the port limits an implementation may have. `PLEN_MAX` is "any natural or unbounded". -/
def Config.Limits.legal (lim : Config.Limits) : Prop := lim.dimOk ∧ lim.coordOk ∧ lim.digOk

end Sys2Proof
end

