-- ==== Sys2Proof/Certificates/Slice0/Obligations.lean ====
section
/-! DEFINITION. The statements for the provers, from the numbered rules of spec/. Each names the rule
it formalises. Where a statement says `∃ r, … = .next (s.report … r)`, the result port is left open:
what it holds when no record is returned is the model's own choice (log entry 2). -/

namespace Sys2Proof.Machine

/-- `s` with only the result registers and the result port written (R37, R94). -/
def State.report (s : State) (st : BitVec 4) (err : BitVec 3) (info : BitVec 8) (r : Result) :
    State :=
  { s with st := st, err := err, info := info, result := r }

end Sys2Proof.Machine

open Sys2Proof Sys2Proof.Machine

/-! ## Encoding -/

/-- R90, R91, R94: decode and encode agree. Every op, with every operand, is read back from its own
command word and operand record; and a command word that decodes is the one its op encodes to. -/
def Obligations.DecodeEncodeAgree : Prop :=
  (∀ i : Instr, decode (encode i).1 (encode i).2 = .ok i) ∧
  ∀ (cmd : Byte) (o : OperandRecord) (i : Instr), decode cmd o = .ok i →
    (encode i).1 = cmd ∧ decode cmd (encode i).2 = .ok i

/-- R91: the opcode map, all eight bits matched, and R92: every other word is reserved. -/
def Obligations.OpcodeMapIsTotal : Prop :=
  (∀ o : OperandRecord,
    decode 0x01 o = .ok .rst ∧
    decode 0x02 o = .ok (.cfg o.rows o.cols o.tlx o.tly o.trx o.try_ o.blx o.bly) ∧
    decode 0x10 o = .ok (.geoPt o.row o.col) ∧
    decode 0x11 o = .ok .geoRect ∧
    decode 0x12 o = .ok .geoPitch ∧
    decode 0x20 o = .ok (.dig o.b) ∧
    decode 0x30 o = .ok (.cls o.v) ∧
    decode 0x40 o = .ok (.encLoad o.s) ∧
    decode 0x41 o = .ok .encNext ∧
    decode 0x50 o = .ok .decFrame) ∧
  ∀ (cmd : Byte) (o : OperandRecord),
    cmd ∉ [0x01#8, 0x02#8, 0x10#8, 0x11#8, 0x12#8, 0x20#8, 0x30#8, 0x40#8, 0x41#8, 0x50#8] →
    decode cmd o = .error (.illegalCommand cmd)

/-- R91, a sanity statement: three command words written out bit by bit, unit then function. -/
def Obligations.SampleCommandWordsDecode : Prop :=
  decodeTableWord 8 0b00000001 = some .rst ∧
  decodeTableWord 8 0b00010010 = some .geoPitch ∧
  decodeTableWord 8 0b01010000 = some .decFrame ∧
  decodeTableWord 8 0b00000000 = none

/-- R95: the two-bit cell codes; the low bit of a data cell's code is its bit; `11` is reserved. -/
def Obligations.CellCodesAreInjective : Prop :=
  (∀ c : Cell, cellOfCode (cellCode c) = some c) ∧ cellOfCode 0b11 = none ∧
  ∀ (c : Cell) (b : Bit), bitOfCell c = some b ↔ cellCode c = BitVec.ofNat 2 b.toNat

/-- R8: under every set of limits an implementation may have, the source's own example is a well-formed
`CFG`, and `DIG` takes every bit string as long as the data region of a grid that a well-formed `CFG`
configures. How "the largest configuration" is read is the model's (log entry 4). -/
def Obligations.LegalLimitsAdmitTheSourceExample : Prop :=
  ∀ lim : Config.Limits, lim.legal →
    (Instr.cfg 49 160 320 154 1603 154 320 938).wf lim = true ∧
    ∀ (rows cols tlx tly trx try_ blx bly : Nat) (b : List Bit),
      (Instr.cfg rows cols tlx tly trx try_ blx bly).wf lim = true →
      256 < rows * cols → (rows * cols - 256) % 8 = 0 → b.length ≤ rows * cols - 256 →
      (Instr.dig b).wf lim = true

/-! ## The step -/

/-- A step runs the decoded op on the state in which the host has presented it: its image is the one
a `DEC.FRAME` reads, and the op is off the port (log entry 1). -/
def Obligations.StepRunsTheDecodedOp : Prop :=
  ∀ (s : State) (r : Request) (rest : List Request) (i : Instr),
    s.port = r :: rest → decode r.cmd r.operands = .ok i →
    step s = exec i { s with img := r.img, port := rest }

/-- R284: the block is idle between ops and keeps all state. An empty port is the model's idle host
(log entry 1). -/
def Obligations.IdleBlockKeepsItsState : Prop :=
  ∀ s : State, s.port = [] → step s = .next s

/-- R93: a reserved command word is refused with `IllegalCommand`, in every state. -/
def Obligations.ReservedWordIsRefused : Prop :=
  ∀ (s : State) (q : Request) (rest : List Request), s.port = q :: rest →
    q.cmd ∉ [0x01#8, 0x02#8, 0x10#8, 0x11#8, 0x12#8, 0x20#8, 0x30#8, 0x40#8, 0x41#8, 0x50#8] →
    ∃ r, step s = .next (({ s with img := q.img, port := rest } : State).report 6#4 0#3 1#8 r)

/-! ## Reset and configuration -/

/-- R46: the value of every register, flag and memory after reset. -/
def Obligations.ResetValues : Prop :=
  let s := State.reset
  s.rows = 0 ∧ s.cols = 0 ∧ s.tlx = 0 ∧ s.tly = 0 ∧ s.trx = 0 ∧ s.try_ = 0 ∧ s.blx = 0 ∧
  s.bly = 0 ∧ s.c = 0 ∧ s.d = 0 ∧ s.w = 0 ∧ s.h = 0 ∧ s.plen = 0 ∧ s.encOff = 0 ∧ s.outLen = 0 ∧
  s.cfgv = false ∧ s.plv = false ∧ s.encLast = false ∧ s.decDone = false ∧
  s.st = 0#4 ∧ s.err = 0#3 ∧ s.info = 0#8 ∧ s.fault = 0#3 ∧
  s.payload = [] ∧ s.fb = none ∧ s.output = []

/-- R120: `RST` is performed in every state and leaves the reset state; what the model's own ports
hold is left open. A second `RST` changes nothing, and an `ENC.NEXT` after it is refused. -/
def Obligations.RstRestoresReset : Prop :=
  ∀ s : State, ∃ t, exec .rst s = .next t ∧
    t = { State.reset with img := t.img, port := t.port, result := t.result } ∧
    exec .rst t = .next t ∧ ∃ r, exec .encNext t = .next (t.report 6#4 0#3 3#8 r)

/-- R122, R27, R28, R29: a `CFG` whose five checks hold writes the twelve configuration registers and
`CFGV`, and nothing else but the result registers. The empty result port is the model's choice (log
entry 2). -/
def Obligations.CfgLatchesConfiguration : Prop :=
  ∀ (s : State) (rows cols tlx tly trx try_ blx bly : Nat),
    s.fault = 0#3 → s.cfgv = false →
    1 ≤ rows → 1 ≤ cols → 256 < rows * cols → (rows * cols - 256) % 8 = 0 → tlx < trx → tly < bly →
    exec (.cfg rows cols tlx tly trx try_ blx bly) s =
      .next (({ s with
        rows := rows, cols := cols, tlx := tlx, tly := tly, trx := trx, try_ := try_, blx := blx,
        bly := bly, c := rows * cols, d := rows * cols - 256, w := trx - tlx, h := bly - tly,
        cfgv := true } : State).report 0#4 0#3 0#8 .none)

/-- R123: the checks of `CFG` in their order; the first that fails decides `INFO`, and the error is the
fatal `GeometryMisconfiguration` that writes `FAULT` and nothing else but the result registers (R122). -/
def Obligations.CfgFirstFailingCheckDecides : Prop :=
  ∀ (s : State) (rows cols tlx tly trx try_ blx bly : Nat), s.fault = 0#3 → s.cfgv = false →
    let fails (i : BitVec 8) : Prop :=
      ∃ r, exec (.cfg rows cols tlx tly trx try_ blx bly) s =
        .next (({ s with fault := 5#3 } : State).report 5#4 5#3 i r)
    let check1 := 1 ≤ rows ∧ 1 ≤ cols
    let check2 := 256 < rows * cols
    let check3 := (rows * cols - 256) % 8 = 0
    let check4 := tlx < trx
    let check5 := tly < bly
    (¬check1 → fails 1#8) ∧
    (check1 → ¬check2 → fails 2#8) ∧
    (check1 → check2 → ¬check3 → fails 3#8) ∧
    (check1 → check2 → check3 → ¬check4 → fails 4#8) ∧
    (check1 → check2 → check3 → check4 → ¬check5 → fails 5#8)

/-- R278: the admission tests in their order; a refused op writes only `ST`, `ERR` and `INFO`. Test 1
is the decoder's and is made in every state; `RST` is always admitted. -/
def Obligations.RefusalTestsInOrder : Prop :=
  (∀ (s : State) (q : Request) (rest : List Request), s.port = q :: rest →
    q.cmd ∉ [0x01#8, 0x02#8, 0x10#8, 0x11#8, 0x12#8, 0x20#8, 0x30#8, 0x40#8, 0x41#8, 0x50#8] →
    ∃ r, step s = .next (({ s with img := q.img, port := rest } : State).report 6#4 0#3 1#8 r)) ∧
  (∀ s : State, ∃ t, exec .rst s = .next t ∧ t.st = 0#4) ∧
  ∀ (i : Instr) (s : State), i ≠ .rst →
    let refused (why : BitVec 8) : Prop := ∃ r, exec i s = .next (s.report 6#4 0#3 why r)
    (s.fault ≠ 0#3 → refused 2#8) ∧
    (s.fault = 0#3 → s.cfgv = false →
      (∃ row col, i = .geoPt row col) ∨ i = .geoRect ∨ i = .geoPitch ∨ (∃ b, i = .encLoad b) ∨
        i = .encNext ∨ i = .decFrame → refused 3#8) ∧
    (s.fault = 0#3 → s.cfgv = true →
      (∃ rows cols tlx tly trx try_ blx bly, i = .cfg rows cols tlx tly trx try_ blx bly) →
      refused 4#8) ∧
    (s.fault = 0#3 → s.cfgv = true → s.plv = false → i = .encNext → refused 5#8) ∧
    (s.fault = 0#3 → s.cfgv = true → s.plv = true → (∃ b, i = .encLoad b) → refused 6#8) ∧
    (s.fault = 0#3 → s.cfgv = true → s.decDone = true → i = .decFrame → refused 7#8) ∧
    (s.fault = 0#3 → s.cfgv = true →
      (∃ row col, i = .geoPt row col ∧ (s.rows ≤ row ∨ s.cols ≤ col)) → refused 8#8)

/-! ## Geometry -/

/-- R147 with the formula of R142: `GEO.PT` returns the sample point and changes the result registers
only. -/
def Obligations.GeoPtReturnsSamplePoint : Prop :=
  ∀ (s : State) (row col : Nat),
    s.fault = 0#3 → s.cfgv = true → row < s.rows → col < s.cols →
    exec (.geoPt row col) s = .next (s.report 0#4 0#3 0#8
      (.point (s.tlx + ((2 * col + 1) * s.w) / (2 * s.cols))
        (s.tly + ((2 * row + 1) * s.h) / (2 * s.rows))))

/-- R148, R143, R149, R141: `GEO.RECT` and `GEO.PITCH` return the capture rectangle and the unreduced
pitch, and change the result registers only. -/
def Obligations.GeoRectAndPitchReturn : Prop :=
  ∀ s : State, s.fault = 0#3 → s.cfgv = true →
    exec .geoRect s = .next (s.report 0#4 0#3 0#8 (.rect s.tlx s.tly s.w s.h)) ∧
    exec .geoPitch s = .next (s.report 0#4 0#3 0#8 (.pitch s.w s.cols s.h s.rows))

/-- R142: the sample point is the rational centre of the cell truncated to integers, in the integer
form the rule gives, and `Sample(k)` is the sample point of the grid position of `k`. -/
def Obligations.SamplePointIsTheTruncatedCentre : Prop :=
  ∀ s : State, 1 ≤ s.rows → 1 ≤ s.cols →
    (∀ row col : Nat, row < s.rows → col < s.cols →
      s.samplePt row col = (s.tlx + ((2 * col + 1) * s.w) / (2 * s.cols),
        s.tly + ((2 * row + 1) * s.h) / (2 * s.rows)) ∧
      ((s.samplePt row col).1 : ℤ) =
        ⌊(s.tlx : ℚ) + ((col : ℚ) + 1 / 2) * ((s.w : ℚ) / (s.cols : ℚ))⌋ ∧
      ((s.samplePt row col).2 : ℤ) =
        ⌊(s.tly : ℚ) + ((row : ℚ) + 1 / 2) * ((s.h : ℚ) / (s.rows : ℚ))⌋) ∧
    ∀ k : Nat, k < s.rows * s.cols → s.gt k = s.samplePt (k / s.cols) (k % s.cols)

/-- R144: every sample point lies inside the capture rectangle. -/
def Obligations.SamplePointsLieInTheRectangle : Prop :=
  ∀ (s : State) (row col : Nat), s.ConfigInv → s.cfgv = true → row < s.rows → col < s.cols →
    s.tlx ≤ (s.samplePt row col).1 ∧ (s.samplePt row col).1 ≤ s.tlx + s.w - 1 ∧
    s.tly ≤ (s.samplePt row col).2 ∧ (s.samplePt row col).2 ≤ s.tly + s.h - 1

/-- R145: sample points rise with the column and the row, strictly where the pitch is a pixel or more. -/
def Obligations.SamplePointsAreOrdered : Prop :=
  ∀ (s : State) (row row' col col' : Nat), 1 ≤ s.rows → 1 ≤ s.cols →
    (col ≤ col' → (s.samplePt row col).1 ≤ (s.samplePt row col').1) ∧
    (row ≤ row' → (s.samplePt row col).2 ≤ (s.samplePt row' col).2) ∧
    (s.cols ≤ s.w → col < col' → (s.samplePt row col).1 < (s.samplePt row col').1) ∧
    (s.rows ≤ s.h → row < row' → (s.samplePt row col).2 < (s.samplePt row' col).2)

/-! ## Bits, bytes and the digest -/

/-- R60 and R61: `Bits8` and `Unpack`, most significant bit first, bytes in payload order. -/
def Obligations.UnpackIsMostSignificantFirst : Prop :=
  (∀ x : Byte, (bits8 x).length = 8 ∧
    ∀ i, i < 8 → (bits8 x)[i]? = some (decide ((x.toNat / 2 ^ (7 - i)) % 2 = 1))) ∧
  ∀ s : List Byte, (unpack s).length = 8 * s.length ∧
    ∀ j i, i < 8 → ∀ x, s[j]? = some x → (unpack s)[8 * j + i]? = some (x.getLsbD (7 - i))

/-- R62: `Pack` is the byte string with the given sums, and `Pack` and `Unpack` undo each other. -/
def Obligations.PackAndUnpackAreInverse : Prop :=
  (∀ b : List Bit, b.length % 8 = 0 →
    (pack b).length = b.length / 8 ∧ unpack (pack b) = b ∧
    ∀ j, j < b.length / 8 →
      ((pack b).map BitVec.toNat)[j]? =
        some (∑ i ∈ Finset.range 8, (b.getD (8 * j + i) false).toNat * 2 ^ (7 - i))) ∧
  ∀ s : List Byte, pack (unpack s) = s

/-- R160 and R161: `Digest` fails exactly on the lengths that are not a positive multiple of 8, and its
result has 256 bits. -/
def Obligations.DigestIsTotalOnAlignedStrings : Prop :=
  (∀ b : List Bit, 0 < b.length → b.length % 8 = 0 → ∃ d, digest b = some d ∧ d.length = 256) ∧
  ∀ b : List Bit, ¬(0 < b.length ∧ b.length % 8 = 0) → digest b = none

/-- R63: bit `i` of the digest string is binary digit `255 − i` of the hash read as one big-endian
number, leading zeros kept. -/
def Obligations.DigestStringIsBigEndian : Prop :=
  ∀ (b d : List Bit), digest b = some d →
    ∀ i, i < 256 → d[i]? =
      some (((Sha.sha256 (pack b)).foldl (fun (n : Nat) (x : Byte) => 256 * n + x.toNat) 0).testBit (255 - i))

/-- R165: the padding in bits (the least `k` that brings the length to 448 modulo 512, then the length
on 64 bits), its zero bytes, and the number of blocks. -/
def Obligations.ShaPaddingFillsWholeBlocks : Prop :=
  ∀ s : List Byte, 8 * s.length < 2 ^ 64 →
    (∃ (k : Nat) (len64 : List Bit),
      (8 * s.length + 1 + k) % 512 = 448 ∧ (∀ j < k, (8 * s.length + 1 + j) % 512 ≠ 448) ∧
      len64.length = 64 ∧ bitsToNat len64 = 8 * s.length ∧
      unpack (Sha.padMessage s) = unpack s ++ [true] ++ List.replicate k false ++ len64) ∧
    (∃ (z : Nat) (len8 : List Byte),
      (z : ℤ) = (55 - (s.length : ℤ)) % 64 ∧ len8.length = 8 ∧
      Sha.padMessage s = s ++ [0x80#8] ++ List.replicate z 0x00#8 ++ len8) ∧
    (Sha.padMessage s).length = 64 * ((s.length + 8) / 64 + 1)

/-- R164: `SHR` and `ROTR` are the quotient and the sum the rule gives. -/
def Obligations.ShaRotationsAreArithmetic : Prop :=
  ∀ (n : Nat) (x : Word), 0 < n → n < 32 →
    (Sha.shr n x).toNat = x.toNat / 2 ^ n ∧
    (Sha.rotr n x).toNat = x.toNat / 2 ^ n + (x.toNat % 2 ^ n) * 2 ^ (32 - n)

/-- R169: the 64 words of the message schedule satisfy its recurrence. -/
def Obligations.ShaScheduleRecurrence : Prop :=
  ∀ block : List Word, block.length = 16 →
    let W (t : Nat) : Word := (Sha.schedule block).getD t 0
    (Sha.schedule block).length = 64 ∧
    (∀ t, t < 16 → W t = block.getD t 0) ∧
    ∀ t, 16 ≤ t → t < 64 →
      W t = Sha.smallSigma1 (W (t - 2)) + W (t - 7) + Sha.smallSigma0 (W (t - 15)) + W (t - 16)

/-- R162: `DIG`. An illegal length is reported with its remainder and changes nothing else; a legal
one returns the digest; either way only the result registers change. -/
def Obligations.DigReturnsDigestOrReportsLength : Prop :=
  ∀ (s : State) (b : List Bit),
    (s.fault ≠ 0#3 → ∃ r, exec (.dig b) s = .next (s.report 6#4 0#3 2#8 r)) ∧
    (s.fault = 0#3 → ¬(0 < b.length ∧ b.length % 8 = 0) →
      ∃ r, exec (.dig b) s = .next (s.report 4#4 1#3 (BitVec.ofNat 8 (b.length % 8)) r)) ∧
    (s.fault = 0#3 → 0 < b.length → b.length % 8 = 0 →
      ∃ d, digest b = some d ∧ exec (.dig b) s = .next (s.report 0#4 0#3 0#8 (.digest d)))

/-! ## The classifier -/

/-- R101 and R210: the three bands, and how many of the 256 intensities each class has. -/
def Obligations.ClassifyPartitionsIntensities : Prop :=
  (∀ v : Byte,
    (classify v = .pad ↔ 80 ≤ v.toNat ∧ v.toNat ≤ 89) ∧
    (classify v = .zero ↔ v.toNat ≤ 79 ∨ (90 ≤ v.toNat ∧ v.toNat ≤ 127)) ∧
    (classify v = .one ↔ 128 ≤ v.toNat)) ∧
  ((List.range 256).filter fun n => classify (BitVec.ofNat 8 n) = .zero).length = 118 ∧
  ((List.range 256).filter fun n => classify (BitVec.ofNat 8 n) = .pad).length = 10 ∧
  ((List.range 256).filter fun n => classify (BitVec.ofNat 8 n) = .one).length = 128

/-- R212: `CLS` returns the cell of R210, needs no configuration, and changes the result registers only. -/
def Obligations.ClsReturnsTheCell : Prop :=
  ∀ (s : State) (v : Byte),
    (s.fault ≠ 0#3 → ∃ r, exec (.cls v) s = .next (s.report 6#4 0#3 2#8 r)) ∧
    (s.fault = 0#3 → exec (.cls v) s = .next (s.report 0#4 0#3 0#8 (.cell
      (if 80 ≤ v.toNat ∧ v.toNat < 90 then .pad else if v.toNat < 128 then .zero else .one))))

/-! ## The encoder -/

/-- R191: `ENC.LOAD` makes PAY the operand's bytes and no others, starts the offset, and leaves every
other register and memory alone. The empty result port (log entry 2) and what an unlisted address
reads as (log entry 5) are the model's choices. -/
def Obligations.EncLoadStoresThePayload : Prop :=
  ∀ (s : State) (bytes : List Byte), s.fault = 0#3 → s.cfgv = true → s.plv = false →
    ∃ t, exec (.encLoad bytes) s = .next t ∧
      t = ({ s with pay := t.pay, plen := bytes.length, encOff := 0, encLast := false,
                    plv := true } : State).report 0#4 0#3 0#8 .none ∧
      t.payload = bytes ∧ ∀ a, bytes.length ≤ a → t.pay.read a = Memory.unlisted

/-- R192: the cells of a frame, one by one. -/
def Obligations.MakeFrameLayout : Prop :=
  ∀ (d : Nat) (p : List Byte), 1 ≤ p.length → 8 * p.length ≤ d →
    ∃ frame chk, makeFrame d p = some frame ∧ digest (unpack p) = some chk ∧
      frame.length = d + 256 ∧
      (∀ k, k < 8 * p.length → frame[k]? = ((unpack p)[k]?).map cellOfBit) ∧
      (∀ k, 8 * p.length ≤ k → k < d → frame[k]? = some .pad) ∧
      ∀ i, i < 256 → frame[d + i]? = (chk[i]?).map cellOfBit

/-- R196: what is true of every frame the encoder makes: its `Pad` cells are a tail of the data region,
there are none in the checksum region, and stripping them gives the payload bits and their digest. -/
def Obligations.EncodedFrameFacts : Prop :=
  ∀ (d : Nat) (p : List Byte) (frame : List Cell), d % 8 = 0 → 1 ≤ p.length → 8 * p.length ≤ d →
    makeFrame d p = some frame →
    frame.length = d + 256 ∧
    padCount (frame.take d) = d - 8 * p.length ∧ (d - 8 * p.length) % 8 = 0 ∧
    (∀ k, k < d → (frame[k]? = some .pad ↔ 8 * p.length ≤ k)) ∧
    Cell.pad ∉ frame.drop d ∧
    (Cell.pad ∈ frame ↔ p.length < d / 8) ∧
    validBits (frame.take d) = unpack p ∧
    digest (validBits (frame.take d)) = some (validBits (frame.drop d))

/-- R193: with a payload byte left, `ENC.NEXT` completes. `FB` becomes the frame made of the next
`n = min(PLEN − ENC_OFF, DB)` bytes of PAY, the offset advances by `n`, and the frame is terminal
exactly when `n < DB`; nothing else changes but the result registers. -/
def Obligations.EncNextEmitsTheNextSlice : Prop :=
  ∀ s : State, s.fault = 0#3 → s.cfgv = true → s.plv = true → s.encOff < s.plen → 8 ≤ s.d →
    let n := min (s.plen - s.encOff) (s.d / 8)
    ∃ frame, makeFrame s.d (s.pay.slice s.encOff n) = some frame ∧
      exec .encNext s = .next (({ s with
        fb := some frame, encOff := s.encOff + n, encLast := decide (n < s.d / 8) } : State).report
          0#4 0#3 0#8 (.emitted n (decide (n < s.d / 8))))

/-- R195: with no payload byte left, `ENC.NEXT` is the fatal `InvalidBitLength`: `FAULT <- 1`, no frame
is written, and the block then accepts only `RST`. -/
def Obligations.EncNextWithNothingLeftIsFatal : Prop :=
  ∀ s : State, s.fault = 0#3 → s.cfgv = true → s.plv = true → s.encOff = s.plen →
    ∃ t r, exec .encNext s = .next t ∧ t = ({ s with fault := 1#3 } : State).report 5#4 1#3 0#8 r ∧
      ∀ i : Instr, i ≠ .rst → ∃ r', exec i t = .next (t.report 6#4 0#3 2#8 r')

/-- R194 and R258: the frames of a payload. `ENC.ALL` on a freshly loaded payload records
`PLEN div DB` frames, and one more exactly when `DB` does not divide `PLEN`; it never faults, it stops
with every byte emitted, and the last frame is terminal exactly in that second case. -/
def Obligations.EncAllFrameCount : Prop :=
  ∀ s : State, s.Inv → s.fault = 0#3 → s.plv = true → s.encOff = 0 →
    ∃ frames t, encAll s = .next (frames, t) ∧
      frames.length = s.plen / s.db + (if s.plen % s.db = 0 then 0 else 1) ∧
      t.encOff = s.plen ∧ t.fault = 0#3 ∧
      (0 < s.plen → (t.encLast = true ↔ s.plen % s.db ≠ 0))

/-! ## The decoder -/

/-- R222, R66 and 90_conflicts.md C4: cell `k` is read at the one pixel at the offset of its sample
point from the image's origin, and the read never leaves the image. The address of a pixel is the
model's choice (log entry 3). -/
def Obligations.EveryCellReadsOnePixelInsideTheImage : Prop :=
  ∀ (s : State) (k : Nat), s.ConfigInv → s.cfgv = true → k < s.c →
    let dx := ((2 * (k % s.cols) + 1) * s.w) / (2 * s.cols)
    let dy := ((2 * (k / s.cols) + 1) * s.h) / (2 * s.rows)
    dx < s.w ∧ dy < s.h ∧ s.sampleCell k = some (s.img.read (dy * s.w + dx))

/-- R229: a frame whose checks hold is accepted. Exactly the packed valid bits are appended to OUT,
every byte of OUT outside them is unchanged, a `Pad` cell in the data region ends the stream, and
nothing else changes. -/
def Obligations.DecFrameAcceptsAValidFrame : Prop :=
  ∀ (s : State) (cells : List Cell),
    s.fault = 0#3 → s.cfgv = true → s.decDone = false → s.out.wf → s.shows cells →
    let data := cells.take s.d
    let chk := cells.drop s.d
    let valid := data.filterMap bitOfCell
    Cell.pad ∉ chk → 0 < valid.length → valid.length % 8 = 0 →
    digest valid = some (chk.filterMap bitOfCell) →
    ∃ t, exec .decFrame s = .next t ∧
      t = ({ s with
        out := t.out, outLen := s.outLen + valid.length / 8,
        decDone := decide (Cell.pad ∈ data) } : State).report
          (if Cell.pad ∈ data then 2#4 else 1#4) 0#3 0#8 (.appended (valid.length / 8)) ∧
      t.output = s.output ++ pack valid ∧
      ∀ a, (a < s.outLen ∨ s.outLen + valid.length / 8 ≤ a) → t.out.read a = s.out.read a

/-- R226, R227, R228, R230 and R231: the checks in their order A, B, C. The first that fails decides
`ERR` and `INFO`; the frame is discarded and only the result registers change. -/
def Obligations.DecFrameRejectsInOrder : Prop :=
  ∀ (s : State) (cells : List Cell),
    s.fault = 0#3 → s.cfgv = true → s.decDone = false → s.shows cells →
    let chk := cells.drop s.d
    let valid := (cells.take s.d).filterMap bitOfCell
    let rejects (err : BitVec 3) (info : BitVec 8) : Prop :=
      ∃ r, exec .decFrame s = .next (s.report 3#4 err info r)
    (Cell.pad ∈ chk → rejects 3#3 1#8) ∧
    (Cell.pad ∉ chk → valid.length = 0 → rejects 3#3 2#8) ∧
    (Cell.pad ∉ chk → valid.length % 8 ≠ 0 → rejects 3#3 3#8) ∧
    (Cell.pad ∉ chk → 0 < valid.length → valid.length % 8 = 0 →
      digest valid ≠ some (chk.filterMap bitOfCell) → rejects 2#3 0#8)

/-- R233: round trip for one frame. An image that shows the frame made of `p` is accepted, appends
exactly `p`, and ends the stream if and only if `p` does not fill the frame. -/
def Obligations.FrameRoundTrip : Prop :=
  ∀ (s : State) (p : List Byte) (frame : List Cell),
    s.fault = 0#3 → s.decDone = false → s.cfgv = true → s.ConfigInv → s.out.wf →
    1 ≤ p.length → p.length ≤ s.d / 8 → makeFrame s.d p = some frame → s.shows frame →
    ∃ t, exec .decFrame s = .next t ∧ t.output = s.output ++ p ∧
      t.result = .appended p.length ∧
      (t.decDone = true ↔ p.length < s.d / 8) ∧
      t.st = if p.length < s.d / 8 then 2#4 else 1#4

/-- R313 and R234: the decoder cannot tell a repeat. A `DEC.FRAME` that answers `ADVANCE` answers it
again on the same image and appends the same bytes a second time. -/
def Obligations.RepeatedCaptureAppendsTwice : Prop :=
  ∀ s t : State, s.out.wf → exec .decFrame s = .next t → t.st = 1#4 →
    ∃ u p, t.output = s.output ++ p ∧ 1 ≤ p.length ∧
      exec .decFrame t = .next u ∧ u.st = 1#4 ∧ u.output = s.output ++ p ++ p

/-- R281 and R277: after a recoverable error the block is in the state it was in, and the same op on
the same image answers the same, any number of times. -/
def Obligations.RetryLeavesNoTrace : Prop :=
  ∀ s t : State, exec .decFrame s = .next t → t.st = 3#4 →
    t = s.report t.st t.err t.info t.result ∧ t.fault = 0#3 ∧ exec .decFrame t = .next t

/-- R213, R100 and R259: an image painted under the intensity contract shows the frame, whatever its
other pixels hold, if the pitch is a pixel or more so that no two cells share a sample point. -/
def Obligations.FaithfulImageShowsTheFrame : Prop :=
  ∀ (s : State) (r : Config.Render) (background : Memory) (frame : List Cell),
    s.ConfigInv → s.cfgv = true → renderOk r = true → s.cols ≤ s.w → s.rows ≤ s.h →
    background.wf → frame.length = s.c →
    ({ s with img := s.faithfulImage r background frame } : State).shows frame

/-! ## Errors, outcomes and what never changes -/

/-- R276: fatal error entry, over all ops. An op that changes `FAULT`, and is not `RST`, raised a fatal
error: `FAULT` was 0, the op is `CFG` with code 5 or `ENC.NEXT` with code 1, nothing but `FAULT` and
the result registers changed, and from then on every op but `RST` is refused with `Faulted`. -/
def Obligations.FatalErrorIsPrecise : Prop :=
  ∀ (i : Instr) (s t : State), i ≠ .rst → exec i s = .next t → t.fault ≠ s.fault →
    s.fault = 0#3 ∧
    ((t.fault = 5#3 ∧ ∃ rows cols tlx tly trx try_ blx bly,
        i = .cfg rows cols tlx tly trx try_ blx bly) ∨ (t.fault = 1#3 ∧ i = .encNext)) ∧
    t = ({ s with fault := t.fault } : State).report 5#4 t.fault t.info t.result ∧
    ∀ j : Instr, j ≠ .rst → ∃ r, exec j t = .next (t.report 6#4 0#3 2#8 r)

/-- R38: the sticky fault. No op changes a non-zero `FAULT`; every op but `RST` is refused while it
stands, and `RST` clears it. -/
def Obligations.FaultIsStickyUntilReset : Prop :=
  ∀ (s : State), s.fault ≠ 0#3 →
    (∀ i : Instr, i ≠ .rst → ∃ r, exec i s = .next (s.report 6#4 0#3 2#8 r)) ∧
    ∃ t, exec .rst s = .next t ∧ t.fault = 0#3

/-- R279: every op ends in exactly one outcome, and the state changed is what the outcome's row says.
The codes 7 to 15 are never written. -/
def Obligations.OutcomeTable : Prop :=
  ∀ (i : Instr) (s t : State), exec i s = .next t →
    t.st.toNat ≤ 6 ∧
    (t.st = 0#4 → t.err = 0#3 ∧ i ≠ .decFrame) ∧
    (t.st = 1#4 → t.err = 0#3 ∧ i = .decFrame ∧
      t = ({ s with out := t.out, outLen := t.outLen } : State).report t.st t.err t.info t.result) ∧
    (t.st = 2#4 → t.err = 0#3 ∧ i = .decFrame ∧
      t = ({ s with out := t.out, outLen := t.outLen, decDone := true } : State).report
        t.st t.err t.info t.result) ∧
    (t.st = 3#4 → (t.err = 2#3 ∨ t.err = 3#3) ∧ i = .decFrame ∧
      t = s.report t.st t.err t.info t.result) ∧
    (t.st = 4#4 → t.err = 1#3 ∧ (∃ b, i = .dig b) ∧ t = s.report t.st t.err t.info t.result) ∧
    (t.st = 5#4 → (t.err = 1#3 ∨ t.err = 5#3) ∧
      t = ({ s with fault := t.fault } : State).report t.st t.err t.info t.result) ∧
    (t.st = 6#4 → t.err = 0#3 ∧ t = s.report t.st t.err t.info t.result)

/-- R147, R148, R149, R162, R212: `GEO.PT`, `GEO.RECT`, `GEO.PITCH`, `DIG` and `CLS` write the result
registers only, however they end. -/
def Obligations.ReadingOpsWriteResultsOnly : Prop :=
  ∀ (i : Instr) (s t : State),
    (∃ row col, i = .geoPt row col) ∨ i = .geoRect ∨ i = .geoPitch ∨ (∃ b, i = .dig b) ∨
      (∃ v, i = .cls v) →
    exec i s = .next t → t = s.report t.st t.err t.info t.result

/-- R33, R68 and R78: once valid, the configuration and the sample-point table are the same after every
op but `RST`. -/
def Obligations.ConfigurationIsStatic : Prop :=
  ∀ (i : Instr) (s t : State), i ≠ .rst → exec i s = .next t → s.cfgv = true →
    t.cfgv = true ∧ t.rows = s.rows ∧ t.cols = s.cols ∧ t.tlx = s.tlx ∧ t.tly = s.tly ∧
    t.trx = s.trx ∧ t.try_ = s.try_ ∧ t.blx = s.blx ∧ t.bly = s.bly ∧ t.c = s.c ∧ t.d = s.d ∧
    t.w = s.w ∧ t.h = s.h ∧ ∀ k, t.gt k = s.gt k

/-- R34, R39 and R190: once loaded, the payload is immutable and the offset only grows, until `RST`;
an op other than `ENC.NEXT` leaves the offset and `FB` alone. -/
def Obligations.PayloadIsImmutable : Prop :=
  ∀ (i : Instr) (s t : State), i ≠ .rst → exec i s = .next t → s.plv = true →
    t.plv = true ∧ t.pay = s.pay ∧ t.plen = s.plen ∧ s.encOff ≤ t.encOff ∧
    (i ≠ .encNext → t.encOff = s.encOff ∧ t.fb = s.fb ∧ t.encLast = s.encLast)

/-- R42: the output sink is append-only until `RST`, and written by `DEC.FRAME` alone. -/
def Obligations.OutputIsAppendOnly : Prop :=
  ∀ (i : Instr) (s t : State), i ≠ .rst → exec i s = .next t →
    s.outLen ≤ t.outLen ∧ (∀ a, a < s.outLen → t.out.read a = s.out.read a) ∧
    (i ≠ .decFrame → t.out = s.out ∧ t.outLen = s.outLen ∧ t.decDone = s.decDone)

/-- R235 and R36: `DEC_DONE` once 1 stays 1 until `RST`, and from then on no byte is appended. -/
def Obligations.NothingIsAppendedAfterTheTerminalFrame : Prop :=
  ∀ (i : Instr) (s t : State), i ≠ .rst → exec i s = .next t → s.decDone = true →
    t.decDone = true ∧ t.out = s.out ∧ t.outLen = s.outLen

/-- R45: the halves do not interact. A `DEC.FRAME` and an encoder op depend only on the configuration,
`FAULT` and their own half, and each leaves the other half alone. -/
def Obligations.HalvesDoNotInteract : Prop :=
  (∀ s t : State, exec .decFrame s = .next t →
    t = { s with out := t.out, outLen := t.outLen, decDone := t.decDone, st := t.st, err := t.err,
                 info := t.info, result := t.result } ∧
    ∀ (plen encOff : Nat) (plv encLast : Bool) (pay : Memory) (fb : Option (List Cell)),
      exec .decFrame { s with plen := plen, encOff := encOff, plv := plv, encLast := encLast,
                              pay := pay, fb := fb } =
        .next { t with plen := plen, encOff := encOff, plv := plv, encLast := encLast, pay := pay,
                       fb := fb }) ∧
  ∀ (i : Instr) (s t : State), (∃ b, i = .encLoad b) ∨ i = .encNext → exec i s = .next t →
    (t.out = s.out ∧ t.outLen = s.outLen ∧ t.decDone = s.decDone) ∧
    ∀ (outLen : Nat) (decDone : Bool) (out img : Memory),
      exec i { s with outLen := outLen, decDone := decDone, out := out, img := img } =
        .next { t with outLen := outLen, decDone := decDone, out := out, img := img }

/-- The model's choice (log entry 2), not a rule: an op that does not complete leaves no record on the
result port. -/
def Obligations.NoRecordWithoutCompletion : Prop :=
  ∀ (i : Instr) (s t : State), exec i s = .next t → 3 ≤ t.st.toNat → t.result = .none

/-! ## Invariants -/

/-- R46: the reset state satisfies the invariant. -/
def Obligations.InvariantHoldsAtReset : Prop := State.reset.Inv

/-- Every step keeps the invariant: the constraints of R22 to R42 on the registers and memories hold
along every run. The canonical form of memories in it is the model's (log entry 5). -/
def Obligations.StepKeepsTheInvariant : Prop :=
  ∀ s t : State, s.Inv → step s = .next t → t.Inv

/-- Every step keeps every memory canonical and inside its length register, from every state in which
it is so, whatever the registers hold. The canonical form is the model's choice (log entry 5). -/
def Obligations.StepKeepsMemoryCanonical : Prop :=
  ∀ s t : State, s.MemoryInv → step s = .next t → t.MemoryInv

/-- R13 with R65 and R74: in a state of the invariant no access leaves its memory, so every step
answers a next state. -/
def Obligations.NoStepStops : Prop :=
  ∀ s : State, s.Inv → Safe (step s)

/-! ## Transfers -/

/-- R254 and R311: the encoder side is advanced only by an accepted non-terminal frame. That the signal
is acted on at once is R259's reading of a transfer (log entry 12). -/
def Obligations.AdvanceOnlyAfterValidation : Prop :=
  ∀ (o : Outside) (t u : Transfer), t.step o = .next u → u.enc ≠ t.enc →
    t.phase = .running ∧ u.dec.st = 1#4 ∧ t.dec.outLen < u.dec.outLen ∧
    exec .encNext t.enc = .next u.enc

/-- R251, R257 and R260: how a transfer ends, and what each end says of the two instances. The phase
`failed` is the model's name for a host that gives up on an op that was not performed, the two moments
of an external stop are the model's reading of "at any time", and that a `RETRY_MAX` of 0 stops the
host after its first `RETRY` is the model's choice (log entry 13). -/
def Obligations.TransferEndsAsTheHostDecides : Prop :=
  (∀ (o : Outside) (t : Transfer), t.phase ≠ .running → t.step o = .next t) ∧
  (∀ (o : Outside) (t : Transfer), t.phase = .running → o.stopsBeforeCapture t.iter = true →
    ∃ u, t.step o = .next u ∧ u = { t with phase := .stopped } ∧ u.endedBadly) ∧
  (∀ (o : Outside) (t : Transfer), t.phase = .running → o.stopsBeforeCapture t.iter = false →
    t.dec.fault ≠ 0#3 → ∃ u, t.step o = .next u ∧ u.phase = .failed ∧ u.endedBadly) ∧
  ∀ (o : Outside) (t u : Transfer), t.phase = .running → o.stopsBeforeCapture t.iter = false →
    t.step o = .next u →
    (u.phase = .finished → u.endedWell ∧ u.dec.st = 2#4 ∧ u.enc = t.enc) ∧
    (u.phase = .stopped → u.endedBadly ∧ o.stopsBeforeAdvance t.iter = true ∧ u.dec.st = 1#4 ∧
      t.dec.outLen < u.dec.outLen ∧ u.enc = t.enc) ∧
    (u.phase = .stalled → u.endedBadly ∧ u.dec.st = 3#4 ∧ u.enc = t.enc ∧
      ∃ m, o.retryMax = some m ∧ m ≤ u.retries ∧ u.retries = t.retries + 1) ∧
    (u.phase = .failed → u.dec.st = 6#4 ∧ u.enc = t.enc) ∧
    (u.phase = .running → u.dec.st = 1#4 ∨ u.dec.st = 3#4) ∧
    (u.dec.st = 3#4 → ∀ m, o.retryMax = some m → m ≤ t.retries + 1 → u.phase = .stalled) ∧
    (u.dec.st = 3#4 → o.retryMax = none → u.phase = .running)

/-- R259 and R233: a whole transfer over the faithful channel, whatever the pixels that no cell is
sampled at hold. Two instances with the same grid, the encoder freshly loaded with a payload that its
frames do not divide, the decoder fresh and its pitch a pixel or more: the loop stops with the stream
closed and OUT equal to the payload. -/
def Obligations.TransferDeliversThePayload : Prop :=
  ∀ (enc dec : State) (r : Config.Render) (background : Nat → Memory) (retryMax : Option Nat),
    enc.Inv → dec.Inv → enc.fault = 0#3 → dec.fault = 0#3 → enc.plv = true → enc.encOff = 0 →
    dec.cfgv = true → dec.outLen = 0 → dec.decDone = false →
    dec.rows = enc.rows → dec.cols = enc.cols → dec.cols ≤ dec.w → dec.rows ≤ dec.h →
    renderOk r = true → (∀ i, (background i).wf) → enc.plen % enc.db ≠ 0 →
    ∃ t0 n t, Transfer.start enc dec = .next t0 ∧
      Transfer.run (faithful dec r background retryMax) n t0 = .next t ∧
      t.phase = .finished ∧ t.endedWell ∧ t.dec.output = enc.payload

/-- R235, R315 and R195, over the loop of R259 (log entries 12 and 13): with a payload whose length is a
positive multiple of `DB` no terminal frame is ever displayed. Over the faithful channel the loop never
ends, `DEC_DONE` stays 0, and OUT holds the bytes of the frames in order and then those of the last
frame once more for every further iteration. -/
def Obligations.FullFramesNeverEndTheStream : Prop :=
  ∀ (enc dec : State) (r : Config.Render) (background : Nat → Memory) (retryMax : Option Nat),
    enc.Inv → dec.Inv → enc.fault = 0#3 → dec.fault = 0#3 → enc.plv = true → enc.encOff = 0 →
    dec.cfgv = true → dec.outLen = 0 → dec.decDone = false →
    dec.rows = enc.rows → dec.cols = enc.cols → dec.cols ≤ dec.w → dec.rows ≤ dec.h →
    renderOk r = true → (∀ i, (background i).wf) → 0 < enc.plen → enc.plen % enc.db = 0 →
    ∃ t0, Transfer.start enc dec = .next t0 ∧
      ∀ n, ∃ t, Transfer.run (faithful dec r background retryMax) n t0 = .next t ∧
        t.phase = .running ∧ t.dec.decDone = false ∧ t.dec.outLen = n * enc.db ∧
        t.dec.output = enc.payload.take (n * enc.db) ++
          (List.replicate (n - enc.plen / enc.db)
            (enc.payload.drop (enc.plen - enc.db))).flatten
end

