-- ==== Sys2Proof/Laws/Memory.lean ====
section
/-! SUPPORT. What the memory operations do: a read after a write, and that every operation keeps the
canonical form (`Memory.wf`). -/

namespace Sys2Proof.Machine

@[simp] theorem Memory.read_nil (a : Nat) : Memory.read [] a = Memory.unlisted := rfl

theorem Memory.wf_nil : Memory.wf [] := ⟨List.Pairwise.nil, by simp⟩

/-- The memories of the reset state have the canonical form. -/
theorem reset_memories_wf : State.reset.pay.wf ∧ State.reset.out.wf ∧ State.reset.img.wf :=
  ⟨Memory.wf_nil, Memory.wf_nil, Memory.wf_nil⟩

/-- A canonical memory lists nothing at or below the address of an entry before it. -/
theorem Memory.read_eq_unlisted {m : Memory} {a : Nat} (h : ∀ x ∈ m, x.1 ≠ a) :
    m.read a = Memory.unlisted := by
  induction m with
  | nil => rfl
  | cons x m ih =>
    obtain ⟨k, v⟩ := x
    have hk : k ≠ a := h (k, v) (by simp)
    simpa [Memory.read, hk] using ih fun y hy => h y (by simp [hy])

theorem Memory.write_cons_lt {k a : Nat} (v : Byte) (m : Memory) (b : Byte) (h : a < k) :
    Memory.write ((k, v) :: m) a b =
      if b = Memory.unlisted then (k, v) :: m else (a, b) :: (k, v) :: m := by
  simp [Memory.write, h]

theorem Memory.write_cons_eq (a : Nat) (v : Byte) (m : Memory) (b : Byte) :
    Memory.write ((a, v) :: m) a b = if b = Memory.unlisted then m else (a, b) :: m := by
  simp [Memory.write]

theorem Memory.write_cons_gt {k a : Nat} (v : Byte) (m : Memory) (b : Byte) (h : k < a) :
    Memory.write ((k, v) :: m) a b = (k, v) :: Memory.write m a b := by
  simp [Memory.write, Nat.not_lt_of_gt h, Nat.ne_of_gt h]

@[simp] theorem Memory.read_cons (k : Nat) (v : Byte) (m : Memory) (a : Nat) :
    Memory.read ((k, v) :: m) a = if k = a then v else Memory.read m a := rfl

/-- A write leaves every other address alone, in any memory. -/
theorem Memory.read_write_of_ne (m : Memory) {a a' : Nat} (b : Byte) (h : a' ≠ a) :
    (m.write a b).read a' = m.read a' := by
  induction m with
  | nil => by_cases hb : b = Memory.unlisted <;> simp [Memory.write, hb, h.symm]
  | cons x m ih =>
    obtain ⟨k, v⟩ := x
    rcases lt_trichotomy a k with hlt | rfl | hgt
    · rw [Memory.write_cons_lt _ _ _ hlt]
      by_cases hb : b = Memory.unlisted <;> simp [hb, h.symm]
    · rw [Memory.write_cons_eq]
      by_cases hb : b = Memory.unlisted <;> simp [hb, h.symm]
    · rw [Memory.write_cons_gt _ _ _ hgt]
      simp [ih]

/-- A read after a write to the same address gives the byte written. -/
theorem Memory.read_write_same {m : Memory} (h : m.wf) (a : Nat) (b : Byte) :
    (m.write a b).read a = b := by
  induction m with
  | nil => by_cases hb : b = Memory.unlisted <;> simp [Memory.write, hb]
  | cons x m ih =>
    obtain ⟨k, v⟩ := x
    have hm : Memory.wf m := ⟨h.1.of_cons, fun y hy => h.2 y (by simp [hy])⟩
    have hrise : ∀ y ∈ m, k < y.1 := fun y hy => (List.pairwise_cons.1 h.1).1 y hy
    have habove : a ≤ k → Memory.read m a = Memory.unlisted := fun hk =>
      Memory.read_eq_unlisted fun y hy => by have := hrise y hy; omega
    rcases lt_trichotomy a k with hlt | rfl | hgt
    · rw [Memory.write_cons_lt _ _ _ hlt]
      by_cases hb : b = Memory.unlisted <;> simp [hb, habove hlt.le, Nat.ne_of_gt hlt]
    · rw [Memory.write_cons_eq]
      by_cases hb : b = Memory.unlisted <;> simp [hb, habove le_rfl]
    · rw [Memory.write_cons_gt _ _ _ hgt]
      simp [ih hm, Nat.ne_of_lt hgt]

/-- A written memory lists the address written, if anything new, and what it listed before. -/
theorem Memory.mem_write {m : Memory} {a : Nat} {b : Byte} {x : Host.Cell}
    (h : x ∈ m.write a b) : x ∈ m ∨ (x = (a, b) ∧ b ≠ Memory.unlisted) := by
  induction m with
  | nil => by_cases hb : b = Memory.unlisted <;> simp_all [Memory.write]
  | cons y m ih =>
    obtain ⟨k, v⟩ := y
    rcases lt_trichotomy a k with hlt | rfl | hgt
    · rw [Memory.write_cons_lt _ _ _ hlt] at h
      by_cases hb : b = Memory.unlisted <;> simp_all [or_comm]
    · rw [Memory.write_cons_eq] at h
      by_cases hb : b = Memory.unlisted
      · simp_all
      · simp_all only [if_false, List.mem_cons]; tauto
    · rw [Memory.write_cons_gt _ _ _ hgt, List.mem_cons] at h
      rcases h with rfl | h
      · simp
      · rcases ih h with h | h <;> simp [h]

/-- A write keeps the canonical form. -/
theorem Memory.wf_write {m : Memory} (h : m.wf) (a : Nat) (b : Byte) : (m.write a b).wf := by
  induction m with
  | nil => by_cases hb : b = Memory.unlisted <;> simp [Memory.write, Memory.wf, hb]
  | cons x m ih =>
    obtain ⟨k, v⟩ := x
    have hm : Memory.wf m := ⟨h.1.of_cons, fun y hy => h.2 y (by simp [hy])⟩
    have hrise : ∀ y ∈ m, k < y.1 := fun y hy => (List.pairwise_cons.1 h.1).1 y hy
    by_cases hlt : a < k
    · by_cases hb : b = Memory.unlisted
      · simpa [Memory.write, hlt, hb] using h
      · simp only [Memory.write, hlt, hb, if_true, if_false]
        refine ⟨List.pairwise_cons.2 ⟨?_, h.1⟩, ?_⟩
        · intro y hy
          rcases List.mem_cons.1 hy with rfl | hy
          · exact hlt
          · exact hlt.trans (hrise y hy)
        · intro y hy
          rcases List.mem_cons.1 hy with rfl | hy
          · exact hb
          · exact h.2 y hy
    · by_cases heq : a = k
      · by_cases hb : b = Memory.unlisted
        · simpa [Memory.write, heq, hb] using hm
        · simp only [Memory.write, heq, hb, if_true, if_false, lt_irrefl]
          refine ⟨List.pairwise_cons.2 ⟨fun y hy => hrise y hy, hm.1⟩, ?_⟩
          intro y hy
          rcases List.mem_cons.1 hy with rfl | hy
          · exact hb
          · exact hm.2 y hy
      · simp only [Memory.write, hlt, heq, if_false]
        refine ⟨List.pairwise_cons.2 ⟨?_, (ih hm).1⟩, ?_⟩
        · intro y hy
          rcases Memory.mem_write hy with hy | ⟨rfl, -⟩
          · exact hrise y hy
          · exact Nat.lt_of_le_of_ne (Nat.le_of_not_lt hlt) (Ne.symm heq)
        · intro y hy
          rcases List.mem_cons.1 hy with rfl | hy
          · exact h.2 _ (by simp)
          · exact (ih hm).2 y hy

/-- A store leaves every address outside its bytes alone, in any memory. -/
theorem Memory.read_store_of_outside (m : Memory) {a a' : Nat} (bs : List Byte)
    (h : a' < a ∨ a + bs.length ≤ a') : (m.store a bs).read a' = m.read a' := by
  induction bs generalizing m a with
  | nil => rfl
  | cons b bs ih =>
    rw [List.length_cons] at h
    rw [Memory.store, ih _ (by omega), Memory.read_write_of_ne m b (by omega)]

/-- A store keeps the canonical form. -/
theorem Memory.wf_store {m : Memory} (h : m.wf) (a : Nat) (bs : List Byte) : (m.store a bs).wf := by
  induction bs generalizing m a with
  | nil => exact h
  | cons b bs ih => exact ih (Memory.wf_write h a b) _

/-- A read inside the bytes of a store gives the byte stored there. -/
theorem Memory.read_store_inside {m : Memory} (h : m.wf) (a : Nat) (bs : List Byte) {j : Nat}
    (hj : j < bs.length) : (m.store a bs).read (a + j) = bs[j] := by
  induction bs generalizing m a j with
  | nil => simp at hj
  | cons b bs ih =>
    cases j with
    | zero =>
      rw [Memory.store, Memory.read_store_of_outside _ _ (by omega)]
      simpa using Memory.read_write_same h a b
    | succ j =>
      have := ih (Memory.wf_write h a b) (a + 1) (j := j) (by simpa using hj)
      simpa [Memory.store, Nat.add_assoc, Nat.add_comm 1 j] using this

/-- What a stored memory lists: entries of before, and entries inside the stored bytes. -/
theorem Memory.mem_store {m : Memory} {a : Nat} {bs : List Byte} {x : Host.Cell}
    (h : x ∈ m.store a bs) : x ∈ m ∨ (a ≤ x.1 ∧ x.1 < a + bs.length) := by
  induction bs generalizing m a with
  | nil => exact .inl h
  | cons b bs ih =>
    rcases ih h with h | ⟨h1, h2⟩
    · rcases Memory.mem_write h with h | ⟨rfl, -⟩
      · exact .inl h
      · exact .inr ⟨le_refl _, by simp⟩
    · exact .inr ⟨by omega, by simp only [List.length_cons]; omega⟩

@[simp] theorem Memory.slice_length (m : Memory) (a n : Nat) : (m.slice a n).length = n := by
  simp [Memory.slice]

@[simp] theorem Memory.slice_zero (m : Memory) (a : Nat) : m.slice a 0 = [] := rfl

/-- The byte at a place of a slice. -/
theorem Memory.slice_getElem? (m : Memory) (a : Nat) {n j : Nat} (hj : j < n) :
    (m.slice a n)[j]? = some (m.read (a + j)) := by
  simp [Memory.slice, List.getElem?_range hj]

/-- A slice is cut at any place. -/
theorem Memory.slice_add (m : Memory) (a n k : Nat) :
    m.slice a (n + k) = m.slice a n ++ m.slice (a + n) k := by
  simp [Memory.slice, List.range_add, Nat.add_assoc, Function.comp_def]

/-- Two memories that read alike on a range have the same slice of it. -/
theorem Memory.slice_congr {m m' : Memory} {a n : Nat}
    (h : ∀ j < n, m.read (a + j) = m'.read (a + j)) : m.slice a n = m'.slice a n := by
  simp only [Memory.slice]
  exact List.map_congr_left fun j hj => h j (List.mem_range.1 hj)

/-- The bytes of a store read back. -/
theorem Memory.slice_store {m : Memory} (h : m.wf) (a : Nat) (bs : List Byte) :
    (m.store a bs).slice a bs.length = bs := by
  apply List.ext_getElem (by simp)
  intro j h1 h2
  simpa [Memory.slice] using Memory.read_store_inside h a bs h2

end Sys2Proof.Machine
end

