-- ==== Sys2Proof/Laws/State.lean ====
section
/-! SUPPORT. One lemma per field per update of `State`, so that no proof unfolds a record update. -/

namespace Sys2Proof.Machine.State

variable (s : State)

/-! `loadPayload` -/

@[simp] theorem loadPayload_rows (bytes : List Byte) : (s.loadPayload bytes).rows = s.rows := rfl
@[simp] theorem loadPayload_cols (bytes : List Byte) : (s.loadPayload bytes).cols = s.cols := rfl
@[simp] theorem loadPayload_tlx (bytes : List Byte) : (s.loadPayload bytes).tlx = s.tlx := rfl
@[simp] theorem loadPayload_tly (bytes : List Byte) : (s.loadPayload bytes).tly = s.tly := rfl
@[simp] theorem loadPayload_trx (bytes : List Byte) : (s.loadPayload bytes).trx = s.trx := rfl
@[simp] theorem loadPayload_try_ (bytes : List Byte) : (s.loadPayload bytes).try_ = s.try_ := rfl
@[simp] theorem loadPayload_blx (bytes : List Byte) : (s.loadPayload bytes).blx = s.blx := rfl
@[simp] theorem loadPayload_bly (bytes : List Byte) : (s.loadPayload bytes).bly = s.bly := rfl
@[simp] theorem loadPayload_c (bytes : List Byte) : (s.loadPayload bytes).c = s.c := rfl
@[simp] theorem loadPayload_d (bytes : List Byte) : (s.loadPayload bytes).d = s.d := rfl
@[simp] theorem loadPayload_w (bytes : List Byte) : (s.loadPayload bytes).w = s.w := rfl
@[simp] theorem loadPayload_h (bytes : List Byte) : (s.loadPayload bytes).h = s.h := rfl
@[simp] theorem loadPayload_plen (bytes : List Byte) :
    (s.loadPayload bytes).plen = bytes.length := rfl
@[simp] theorem loadPayload_encOff (bytes : List Byte) : (s.loadPayload bytes).encOff = 0 := rfl
@[simp] theorem loadPayload_outLen (bytes : List Byte) :
    (s.loadPayload bytes).outLen = s.outLen := rfl
@[simp] theorem loadPayload_cfgv (bytes : List Byte) : (s.loadPayload bytes).cfgv = s.cfgv := rfl
@[simp] theorem loadPayload_plv (bytes : List Byte) : (s.loadPayload bytes).plv = true := rfl
@[simp] theorem loadPayload_encLast (bytes : List Byte) :
    (s.loadPayload bytes).encLast = false := rfl
@[simp] theorem loadPayload_decDone (bytes : List Byte) :
    (s.loadPayload bytes).decDone = s.decDone := rfl
@[simp] theorem loadPayload_st (bytes : List Byte) : (s.loadPayload bytes).st = s.st := rfl
@[simp] theorem loadPayload_err (bytes : List Byte) : (s.loadPayload bytes).err = s.err := rfl
@[simp] theorem loadPayload_info (bytes : List Byte) : (s.loadPayload bytes).info = s.info := rfl
@[simp] theorem loadPayload_fault (bytes : List Byte) : (s.loadPayload bytes).fault = s.fault := rfl
@[simp] theorem loadPayload_pay (bytes : List Byte) :
    (s.loadPayload bytes).pay = Memory.store [] 0 bytes := rfl
@[simp] theorem loadPayload_fb (bytes : List Byte) : (s.loadPayload bytes).fb = s.fb := rfl
@[simp] theorem loadPayload_out (bytes : List Byte) : (s.loadPayload bytes).out = s.out := rfl
@[simp] theorem loadPayload_img (bytes : List Byte) : (s.loadPayload bytes).img = s.img := rfl
@[simp] theorem loadPayload_result (bytes : List Byte) :
    (s.loadPayload bytes).result = s.result := rfl
@[simp] theorem loadPayload_port (bytes : List Byte) : (s.loadPayload bytes).port = s.port := rfl

/-! `emitFrame` -/

@[simp] theorem emitFrame_rows (frame : List Cell) (n : Nat) :
    (s.emitFrame frame n).rows = s.rows := rfl
@[simp] theorem emitFrame_cols (frame : List Cell) (n : Nat) :
    (s.emitFrame frame n).cols = s.cols := rfl
@[simp] theorem emitFrame_tlx (frame : List Cell) (n : Nat) :
    (s.emitFrame frame n).tlx = s.tlx := rfl
@[simp] theorem emitFrame_tly (frame : List Cell) (n : Nat) :
    (s.emitFrame frame n).tly = s.tly := rfl
@[simp] theorem emitFrame_trx (frame : List Cell) (n : Nat) :
    (s.emitFrame frame n).trx = s.trx := rfl
@[simp] theorem emitFrame_try_ (frame : List Cell) (n : Nat) :
    (s.emitFrame frame n).try_ = s.try_ := rfl
@[simp] theorem emitFrame_blx (frame : List Cell) (n : Nat) :
    (s.emitFrame frame n).blx = s.blx := rfl
@[simp] theorem emitFrame_bly (frame : List Cell) (n : Nat) :
    (s.emitFrame frame n).bly = s.bly := rfl
@[simp] theorem emitFrame_c (frame : List Cell) (n : Nat) : (s.emitFrame frame n).c = s.c := rfl
@[simp] theorem emitFrame_d (frame : List Cell) (n : Nat) : (s.emitFrame frame n).d = s.d := rfl
@[simp] theorem emitFrame_w (frame : List Cell) (n : Nat) : (s.emitFrame frame n).w = s.w := rfl
@[simp] theorem emitFrame_h (frame : List Cell) (n : Nat) : (s.emitFrame frame n).h = s.h := rfl
@[simp] theorem emitFrame_plen (frame : List Cell) (n : Nat) :
    (s.emitFrame frame n).plen = s.plen := rfl
@[simp] theorem emitFrame_encOff (frame : List Cell) (n : Nat) :
    (s.emitFrame frame n).encOff = s.encOff + n := rfl
@[simp] theorem emitFrame_outLen (frame : List Cell) (n : Nat) :
    (s.emitFrame frame n).outLen = s.outLen := rfl
@[simp] theorem emitFrame_cfgv (frame : List Cell) (n : Nat) :
    (s.emitFrame frame n).cfgv = s.cfgv := rfl
@[simp] theorem emitFrame_plv (frame : List Cell) (n : Nat) :
    (s.emitFrame frame n).plv = s.plv := rfl
@[simp] theorem emitFrame_encLast (frame : List Cell) (n : Nat) :
    (s.emitFrame frame n).encLast = encLastFlag n s.db := rfl
@[simp] theorem emitFrame_decDone (frame : List Cell) (n : Nat) :
    (s.emitFrame frame n).decDone = s.decDone := rfl
@[simp] theorem emitFrame_st (frame : List Cell) (n : Nat) : (s.emitFrame frame n).st = s.st := rfl
@[simp] theorem emitFrame_err (frame : List Cell) (n : Nat) :
    (s.emitFrame frame n).err = s.err := rfl
@[simp] theorem emitFrame_info (frame : List Cell) (n : Nat) :
    (s.emitFrame frame n).info = s.info := rfl
@[simp] theorem emitFrame_fault (frame : List Cell) (n : Nat) :
    (s.emitFrame frame n).fault = s.fault := rfl
@[simp] theorem emitFrame_pay (frame : List Cell) (n : Nat) :
    (s.emitFrame frame n).pay = s.pay := rfl
@[simp] theorem emitFrame_fb (frame : List Cell) (n : Nat) :
    (s.emitFrame frame n).fb = some frame := rfl
@[simp] theorem emitFrame_out (frame : List Cell) (n : Nat) :
    (s.emitFrame frame n).out = s.out := rfl
@[simp] theorem emitFrame_img (frame : List Cell) (n : Nat) :
    (s.emitFrame frame n).img = s.img := rfl
@[simp] theorem emitFrame_result (frame : List Cell) (n : Nat) :
    (s.emitFrame frame n).result = s.result := rfl
@[simp] theorem emitFrame_port (frame : List Cell) (n : Nat) :
    (s.emitFrame frame n).port = s.port := rfl

/-! `outAppend` -/

@[simp] theorem outAppend_rows (bytes : List Byte) : (s.outAppend bytes).rows = s.rows := rfl
@[simp] theorem outAppend_cols (bytes : List Byte) : (s.outAppend bytes).cols = s.cols := rfl
@[simp] theorem outAppend_tlx (bytes : List Byte) : (s.outAppend bytes).tlx = s.tlx := rfl
@[simp] theorem outAppend_tly (bytes : List Byte) : (s.outAppend bytes).tly = s.tly := rfl
@[simp] theorem outAppend_trx (bytes : List Byte) : (s.outAppend bytes).trx = s.trx := rfl
@[simp] theorem outAppend_try_ (bytes : List Byte) : (s.outAppend bytes).try_ = s.try_ := rfl
@[simp] theorem outAppend_blx (bytes : List Byte) : (s.outAppend bytes).blx = s.blx := rfl
@[simp] theorem outAppend_bly (bytes : List Byte) : (s.outAppend bytes).bly = s.bly := rfl
@[simp] theorem outAppend_c (bytes : List Byte) : (s.outAppend bytes).c = s.c := rfl
@[simp] theorem outAppend_d (bytes : List Byte) : (s.outAppend bytes).d = s.d := rfl
@[simp] theorem outAppend_w (bytes : List Byte) : (s.outAppend bytes).w = s.w := rfl
@[simp] theorem outAppend_h (bytes : List Byte) : (s.outAppend bytes).h = s.h := rfl
@[simp] theorem outAppend_plen (bytes : List Byte) : (s.outAppend bytes).plen = s.plen := rfl
@[simp] theorem outAppend_encOff (bytes : List Byte) : (s.outAppend bytes).encOff = s.encOff := rfl
@[simp] theorem outAppend_outLen (bytes : List Byte) :
    (s.outAppend bytes).outLen = s.outLen + bytes.length := rfl
@[simp] theorem outAppend_cfgv (bytes : List Byte) : (s.outAppend bytes).cfgv = s.cfgv := rfl
@[simp] theorem outAppend_plv (bytes : List Byte) : (s.outAppend bytes).plv = s.plv := rfl
@[simp] theorem outAppend_encLast (bytes : List Byte) :
    (s.outAppend bytes).encLast = s.encLast := rfl
@[simp] theorem outAppend_decDone (bytes : List Byte) :
    (s.outAppend bytes).decDone = s.decDone := rfl
@[simp] theorem outAppend_st (bytes : List Byte) : (s.outAppend bytes).st = s.st := rfl
@[simp] theorem outAppend_err (bytes : List Byte) : (s.outAppend bytes).err = s.err := rfl
@[simp] theorem outAppend_info (bytes : List Byte) : (s.outAppend bytes).info = s.info := rfl
@[simp] theorem outAppend_fault (bytes : List Byte) : (s.outAppend bytes).fault = s.fault := rfl
@[simp] theorem outAppend_pay (bytes : List Byte) : (s.outAppend bytes).pay = s.pay := rfl
@[simp] theorem outAppend_fb (bytes : List Byte) : (s.outAppend bytes).fb = s.fb := rfl
@[simp] theorem outAppend_out (bytes : List Byte) :
    (s.outAppend bytes).out = s.out.store s.outLen bytes := rfl
@[simp] theorem outAppend_img (bytes : List Byte) : (s.outAppend bytes).img = s.img := rfl
@[simp] theorem outAppend_result (bytes : List Byte) : (s.outAppend bytes).result = s.result := rfl
@[simp] theorem outAppend_port (bytes : List Byte) : (s.outAppend bytes).port = s.port := rfl

/-! `latchConfig` -/

@[simp] theorem latchConfig_rows (rows cols tlx tly trx try_ blx bly : Nat) :
    (s.latchConfig rows cols tlx tly trx try_ blx bly).rows = rows := rfl
@[simp] theorem latchConfig_cols (rows cols tlx tly trx try_ blx bly : Nat) :
    (s.latchConfig rows cols tlx tly trx try_ blx bly).cols = cols := rfl
@[simp] theorem latchConfig_tlx (rows cols tlx tly trx try_ blx bly : Nat) :
    (s.latchConfig rows cols tlx tly trx try_ blx bly).tlx = tlx := rfl
@[simp] theorem latchConfig_tly (rows cols tlx tly trx try_ blx bly : Nat) :
    (s.latchConfig rows cols tlx tly trx try_ blx bly).tly = tly := rfl
@[simp] theorem latchConfig_trx (rows cols tlx tly trx try_ blx bly : Nat) :
    (s.latchConfig rows cols tlx tly trx try_ blx bly).trx = trx := rfl
@[simp] theorem latchConfig_try_ (rows cols tlx tly trx try_ blx bly : Nat) :
    (s.latchConfig rows cols tlx tly trx try_ blx bly).try_ = try_ := rfl
@[simp] theorem latchConfig_blx (rows cols tlx tly trx try_ blx bly : Nat) :
    (s.latchConfig rows cols tlx tly trx try_ blx bly).blx = blx := rfl
@[simp] theorem latchConfig_bly (rows cols tlx tly trx try_ blx bly : Nat) :
    (s.latchConfig rows cols tlx tly trx try_ blx bly).bly = bly := rfl
@[simp] theorem latchConfig_c (rows cols tlx tly trx try_ blx bly : Nat) :
    (s.latchConfig rows cols tlx tly trx try_ blx bly).c = rows * cols := rfl
@[simp] theorem latchConfig_d (rows cols tlx tly trx try_ blx bly : Nat) :
    (s.latchConfig rows cols tlx tly trx try_ blx bly).d = rows * cols - 256 := rfl
@[simp] theorem latchConfig_w (rows cols tlx tly trx try_ blx bly : Nat) :
    (s.latchConfig rows cols tlx tly trx try_ blx bly).w = trx - tlx := rfl
@[simp] theorem latchConfig_h (rows cols tlx tly trx try_ blx bly : Nat) :
    (s.latchConfig rows cols tlx tly trx try_ blx bly).h = bly - tly := rfl
@[simp] theorem latchConfig_plen (rows cols tlx tly trx try_ blx bly : Nat) :
    (s.latchConfig rows cols tlx tly trx try_ blx bly).plen = s.plen := rfl
@[simp] theorem latchConfig_encOff (rows cols tlx tly trx try_ blx bly : Nat) :
    (s.latchConfig rows cols tlx tly trx try_ blx bly).encOff = s.encOff := rfl
@[simp] theorem latchConfig_outLen (rows cols tlx tly trx try_ blx bly : Nat) :
    (s.latchConfig rows cols tlx tly trx try_ blx bly).outLen = s.outLen := rfl
@[simp] theorem latchConfig_cfgv (rows cols tlx tly trx try_ blx bly : Nat) :
    (s.latchConfig rows cols tlx tly trx try_ blx bly).cfgv = true := rfl
@[simp] theorem latchConfig_plv (rows cols tlx tly trx try_ blx bly : Nat) :
    (s.latchConfig rows cols tlx tly trx try_ blx bly).plv = s.plv := rfl
@[simp] theorem latchConfig_encLast (rows cols tlx tly trx try_ blx bly : Nat) :
    (s.latchConfig rows cols tlx tly trx try_ blx bly).encLast = s.encLast := rfl
@[simp] theorem latchConfig_decDone (rows cols tlx tly trx try_ blx bly : Nat) :
    (s.latchConfig rows cols tlx tly trx try_ blx bly).decDone = s.decDone := rfl
@[simp] theorem latchConfig_st (rows cols tlx tly trx try_ blx bly : Nat) :
    (s.latchConfig rows cols tlx tly trx try_ blx bly).st = s.st := rfl
@[simp] theorem latchConfig_err (rows cols tlx tly trx try_ blx bly : Nat) :
    (s.latchConfig rows cols tlx tly trx try_ blx bly).err = s.err := rfl
@[simp] theorem latchConfig_info (rows cols tlx tly trx try_ blx bly : Nat) :
    (s.latchConfig rows cols tlx tly trx try_ blx bly).info = s.info := rfl
@[simp] theorem latchConfig_fault (rows cols tlx tly trx try_ blx bly : Nat) :
    (s.latchConfig rows cols tlx tly trx try_ blx bly).fault = s.fault := rfl
@[simp] theorem latchConfig_pay (rows cols tlx tly trx try_ blx bly : Nat) :
    (s.latchConfig rows cols tlx tly trx try_ blx bly).pay = s.pay := rfl
@[simp] theorem latchConfig_fb (rows cols tlx tly trx try_ blx bly : Nat) :
    (s.latchConfig rows cols tlx tly trx try_ blx bly).fb = s.fb := rfl
@[simp] theorem latchConfig_out (rows cols tlx tly trx try_ blx bly : Nat) :
    (s.latchConfig rows cols tlx tly trx try_ blx bly).out = s.out := rfl
@[simp] theorem latchConfig_img (rows cols tlx tly trx try_ blx bly : Nat) :
    (s.latchConfig rows cols tlx tly trx try_ blx bly).img = s.img := rfl
@[simp] theorem latchConfig_result (rows cols tlx tly trx try_ blx bly : Nat) :
    (s.latchConfig rows cols tlx tly trx try_ blx bly).result = s.result := rfl
@[simp] theorem latchConfig_port (rows cols tlx tly trx try_ blx bly : Nat) :
    (s.latchConfig rows cols tlx tly trx try_ blx bly).port = s.port := rfl

/-! `finish` -/

@[simp] theorem finish_rows (st : Status) (e : ErrorKind) (info : BitVec 8) (r : Result) :
    (s.finish st e info r).rows = s.rows := rfl
@[simp] theorem finish_cols (st : Status) (e : ErrorKind) (info : BitVec 8) (r : Result) :
    (s.finish st e info r).cols = s.cols := rfl
@[simp] theorem finish_tlx (st : Status) (e : ErrorKind) (info : BitVec 8) (r : Result) :
    (s.finish st e info r).tlx = s.tlx := rfl
@[simp] theorem finish_tly (st : Status) (e : ErrorKind) (info : BitVec 8) (r : Result) :
    (s.finish st e info r).tly = s.tly := rfl
@[simp] theorem finish_trx (st : Status) (e : ErrorKind) (info : BitVec 8) (r : Result) :
    (s.finish st e info r).trx = s.trx := rfl
@[simp] theorem finish_try_ (st : Status) (e : ErrorKind) (info : BitVec 8) (r : Result) :
    (s.finish st e info r).try_ = s.try_ := rfl
@[simp] theorem finish_blx (st : Status) (e : ErrorKind) (info : BitVec 8) (r : Result) :
    (s.finish st e info r).blx = s.blx := rfl
@[simp] theorem finish_bly (st : Status) (e : ErrorKind) (info : BitVec 8) (r : Result) :
    (s.finish st e info r).bly = s.bly := rfl
@[simp] theorem finish_c (st : Status) (e : ErrorKind) (info : BitVec 8) (r : Result) :
    (s.finish st e info r).c = s.c := rfl
@[simp] theorem finish_d (st : Status) (e : ErrorKind) (info : BitVec 8) (r : Result) :
    (s.finish st e info r).d = s.d := rfl
@[simp] theorem finish_w (st : Status) (e : ErrorKind) (info : BitVec 8) (r : Result) :
    (s.finish st e info r).w = s.w := rfl
@[simp] theorem finish_h (st : Status) (e : ErrorKind) (info : BitVec 8) (r : Result) :
    (s.finish st e info r).h = s.h := rfl
@[simp] theorem finish_plen (st : Status) (e : ErrorKind) (info : BitVec 8) (r : Result) :
    (s.finish st e info r).plen = s.plen := rfl
@[simp] theorem finish_encOff (st : Status) (e : ErrorKind) (info : BitVec 8) (r : Result) :
    (s.finish st e info r).encOff = s.encOff := rfl
@[simp] theorem finish_outLen (st : Status) (e : ErrorKind) (info : BitVec 8) (r : Result) :
    (s.finish st e info r).outLen = s.outLen := rfl
@[simp] theorem finish_cfgv (st : Status) (e : ErrorKind) (info : BitVec 8) (r : Result) :
    (s.finish st e info r).cfgv = s.cfgv := rfl
@[simp] theorem finish_plv (st : Status) (e : ErrorKind) (info : BitVec 8) (r : Result) :
    (s.finish st e info r).plv = s.plv := rfl
@[simp] theorem finish_encLast (st : Status) (e : ErrorKind) (info : BitVec 8) (r : Result) :
    (s.finish st e info r).encLast = s.encLast := rfl
@[simp] theorem finish_decDone (st : Status) (e : ErrorKind) (info : BitVec 8) (r : Result) :
    (s.finish st e info r).decDone = s.decDone := rfl
@[simp] theorem finish_st (st : Status) (e : ErrorKind) (info : BitVec 8) (r : Result) :
    (s.finish st e info r).st = st.code := rfl
@[simp] theorem finish_err (st : Status) (e : ErrorKind) (info : BitVec 8) (r : Result) :
    (s.finish st e info r).err = e.code := rfl
@[simp] theorem finish_info (st : Status) (e : ErrorKind) (info : BitVec 8) (r : Result) :
    (s.finish st e info r).info = info := rfl
@[simp] theorem finish_fault (st : Status) (e : ErrorKind) (info : BitVec 8) (r : Result) :
    (s.finish st e info r).fault = s.fault := rfl
@[simp] theorem finish_pay (st : Status) (e : ErrorKind) (info : BitVec 8) (r : Result) :
    (s.finish st e info r).pay = s.pay := rfl
@[simp] theorem finish_fb (st : Status) (e : ErrorKind) (info : BitVec 8) (r : Result) :
    (s.finish st e info r).fb = s.fb := rfl
@[simp] theorem finish_out (st : Status) (e : ErrorKind) (info : BitVec 8) (r : Result) :
    (s.finish st e info r).out = s.out := rfl
@[simp] theorem finish_img (st : Status) (e : ErrorKind) (info : BitVec 8) (r : Result) :
    (s.finish st e info r).img = s.img := rfl
@[simp] theorem finish_result (st : Status) (e : ErrorKind) (info : BitVec 8) (r : Result) :
    (s.finish st e info r).result = r := rfl
@[simp] theorem finish_port (st : Status) (e : ErrorKind) (info : BitVec 8) (r : Result) :
    (s.finish st e info r).port = s.port := rfl

/-! `complete` -/

@[simp] theorem complete_rows (r : Result) : (s.complete r).rows = s.rows := rfl
@[simp] theorem complete_cols (r : Result) : (s.complete r).cols = s.cols := rfl
@[simp] theorem complete_tlx (r : Result) : (s.complete r).tlx = s.tlx := rfl
@[simp] theorem complete_tly (r : Result) : (s.complete r).tly = s.tly := rfl
@[simp] theorem complete_trx (r : Result) : (s.complete r).trx = s.trx := rfl
@[simp] theorem complete_try_ (r : Result) : (s.complete r).try_ = s.try_ := rfl
@[simp] theorem complete_blx (r : Result) : (s.complete r).blx = s.blx := rfl
@[simp] theorem complete_bly (r : Result) : (s.complete r).bly = s.bly := rfl
@[simp] theorem complete_c (r : Result) : (s.complete r).c = s.c := rfl
@[simp] theorem complete_d (r : Result) : (s.complete r).d = s.d := rfl
@[simp] theorem complete_w (r : Result) : (s.complete r).w = s.w := rfl
@[simp] theorem complete_h (r : Result) : (s.complete r).h = s.h := rfl
@[simp] theorem complete_plen (r : Result) : (s.complete r).plen = s.plen := rfl
@[simp] theorem complete_encOff (r : Result) : (s.complete r).encOff = s.encOff := rfl
@[simp] theorem complete_outLen (r : Result) : (s.complete r).outLen = s.outLen := rfl
@[simp] theorem complete_cfgv (r : Result) : (s.complete r).cfgv = s.cfgv := rfl
@[simp] theorem complete_plv (r : Result) : (s.complete r).plv = s.plv := rfl
@[simp] theorem complete_encLast (r : Result) : (s.complete r).encLast = s.encLast := rfl
@[simp] theorem complete_decDone (r : Result) : (s.complete r).decDone = s.decDone := rfl
@[simp] theorem complete_st (r : Result) : (s.complete r).st = 0#4 := rfl
@[simp] theorem complete_err (r : Result) : (s.complete r).err = 0#3 := rfl
@[simp] theorem complete_info (r : Result) : (s.complete r).info = 0#8 := rfl
@[simp] theorem complete_fault (r : Result) : (s.complete r).fault = s.fault := rfl
@[simp] theorem complete_pay (r : Result) : (s.complete r).pay = s.pay := rfl
@[simp] theorem complete_fb (r : Result) : (s.complete r).fb = s.fb := rfl
@[simp] theorem complete_out (r : Result) : (s.complete r).out = s.out := rfl
@[simp] theorem complete_img (r : Result) : (s.complete r).img = s.img := rfl
@[simp] theorem complete_result (r : Result) : (s.complete r).result = r := rfl
@[simp] theorem complete_port (r : Result) : (s.complete r).port = s.port := rfl

/-! `refuse` -/

@[simp] theorem refuse_rows (why : RefuseReason) : (s.refuse why).rows = s.rows := rfl
@[simp] theorem refuse_cols (why : RefuseReason) : (s.refuse why).cols = s.cols := rfl
@[simp] theorem refuse_tlx (why : RefuseReason) : (s.refuse why).tlx = s.tlx := rfl
@[simp] theorem refuse_tly (why : RefuseReason) : (s.refuse why).tly = s.tly := rfl
@[simp] theorem refuse_trx (why : RefuseReason) : (s.refuse why).trx = s.trx := rfl
@[simp] theorem refuse_try_ (why : RefuseReason) : (s.refuse why).try_ = s.try_ := rfl
@[simp] theorem refuse_blx (why : RefuseReason) : (s.refuse why).blx = s.blx := rfl
@[simp] theorem refuse_bly (why : RefuseReason) : (s.refuse why).bly = s.bly := rfl
@[simp] theorem refuse_c (why : RefuseReason) : (s.refuse why).c = s.c := rfl
@[simp] theorem refuse_d (why : RefuseReason) : (s.refuse why).d = s.d := rfl
@[simp] theorem refuse_w (why : RefuseReason) : (s.refuse why).w = s.w := rfl
@[simp] theorem refuse_h (why : RefuseReason) : (s.refuse why).h = s.h := rfl
@[simp] theorem refuse_plen (why : RefuseReason) : (s.refuse why).plen = s.plen := rfl
@[simp] theorem refuse_encOff (why : RefuseReason) : (s.refuse why).encOff = s.encOff := rfl
@[simp] theorem refuse_outLen (why : RefuseReason) : (s.refuse why).outLen = s.outLen := rfl
@[simp] theorem refuse_cfgv (why : RefuseReason) : (s.refuse why).cfgv = s.cfgv := rfl
@[simp] theorem refuse_plv (why : RefuseReason) : (s.refuse why).plv = s.plv := rfl
@[simp] theorem refuse_encLast (why : RefuseReason) : (s.refuse why).encLast = s.encLast := rfl
@[simp] theorem refuse_decDone (why : RefuseReason) : (s.refuse why).decDone = s.decDone := rfl
@[simp] theorem refuse_st (why : RefuseReason) : (s.refuse why).st = 6#4 := rfl
@[simp] theorem refuse_err (why : RefuseReason) : (s.refuse why).err = 0#3 := rfl
@[simp] theorem refuse_info (why : RefuseReason) : (s.refuse why).info = why.code := rfl
@[simp] theorem refuse_fault (why : RefuseReason) : (s.refuse why).fault = s.fault := rfl
@[simp] theorem refuse_pay (why : RefuseReason) : (s.refuse why).pay = s.pay := rfl
@[simp] theorem refuse_fb (why : RefuseReason) : (s.refuse why).fb = s.fb := rfl
@[simp] theorem refuse_out (why : RefuseReason) : (s.refuse why).out = s.out := rfl
@[simp] theorem refuse_img (why : RefuseReason) : (s.refuse why).img = s.img := rfl
@[simp] theorem refuse_result (why : RefuseReason) : (s.refuse why).result = .none := rfl
@[simp] theorem refuse_port (why : RefuseReason) : (s.refuse why).port = s.port := rfl

/-! `raiseError` -/

@[simp] theorem raiseError_rows (sev : Severity) (e : ErrorKind) (info : BitVec 8) :
    (s.raiseError sev e info).rows = s.rows := rfl
@[simp] theorem raiseError_cols (sev : Severity) (e : ErrorKind) (info : BitVec 8) :
    (s.raiseError sev e info).cols = s.cols := rfl
@[simp] theorem raiseError_tlx (sev : Severity) (e : ErrorKind) (info : BitVec 8) :
    (s.raiseError sev e info).tlx = s.tlx := rfl
@[simp] theorem raiseError_tly (sev : Severity) (e : ErrorKind) (info : BitVec 8) :
    (s.raiseError sev e info).tly = s.tly := rfl
@[simp] theorem raiseError_trx (sev : Severity) (e : ErrorKind) (info : BitVec 8) :
    (s.raiseError sev e info).trx = s.trx := rfl
@[simp] theorem raiseError_try_ (sev : Severity) (e : ErrorKind) (info : BitVec 8) :
    (s.raiseError sev e info).try_ = s.try_ := rfl
@[simp] theorem raiseError_blx (sev : Severity) (e : ErrorKind) (info : BitVec 8) :
    (s.raiseError sev e info).blx = s.blx := rfl
@[simp] theorem raiseError_bly (sev : Severity) (e : ErrorKind) (info : BitVec 8) :
    (s.raiseError sev e info).bly = s.bly := rfl
@[simp] theorem raiseError_c (sev : Severity) (e : ErrorKind) (info : BitVec 8) :
    (s.raiseError sev e info).c = s.c := rfl
@[simp] theorem raiseError_d (sev : Severity) (e : ErrorKind) (info : BitVec 8) :
    (s.raiseError sev e info).d = s.d := rfl
@[simp] theorem raiseError_w (sev : Severity) (e : ErrorKind) (info : BitVec 8) :
    (s.raiseError sev e info).w = s.w := rfl
@[simp] theorem raiseError_h (sev : Severity) (e : ErrorKind) (info : BitVec 8) :
    (s.raiseError sev e info).h = s.h := rfl
@[simp] theorem raiseError_plen (sev : Severity) (e : ErrorKind) (info : BitVec 8) :
    (s.raiseError sev e info).plen = s.plen := rfl
@[simp] theorem raiseError_encOff (sev : Severity) (e : ErrorKind) (info : BitVec 8) :
    (s.raiseError sev e info).encOff = s.encOff := rfl
@[simp] theorem raiseError_outLen (sev : Severity) (e : ErrorKind) (info : BitVec 8) :
    (s.raiseError sev e info).outLen = s.outLen := rfl
@[simp] theorem raiseError_cfgv (sev : Severity) (e : ErrorKind) (info : BitVec 8) :
    (s.raiseError sev e info).cfgv = s.cfgv := rfl
@[simp] theorem raiseError_plv (sev : Severity) (e : ErrorKind) (info : BitVec 8) :
    (s.raiseError sev e info).plv = s.plv := rfl
@[simp] theorem raiseError_encLast (sev : Severity) (e : ErrorKind) (info : BitVec 8) :
    (s.raiseError sev e info).encLast = s.encLast := rfl
@[simp] theorem raiseError_decDone (sev : Severity) (e : ErrorKind) (info : BitVec 8) :
    (s.raiseError sev e info).decDone = s.decDone := rfl
@[simp] theorem raiseError_st (sev : Severity) (e : ErrorKind) (info : BitVec 8) :
    (s.raiseError sev e info).st = sev.status.code := rfl
@[simp] theorem raiseError_err (sev : Severity) (e : ErrorKind) (info : BitVec 8) :
    (s.raiseError sev e info).err = e.code := rfl
@[simp] theorem raiseError_info (sev : Severity) (e : ErrorKind) (info : BitVec 8) :
    (s.raiseError sev e info).info = info := rfl
@[simp] theorem raiseError_fault (sev : Severity) (e : ErrorKind) (info : BitVec 8) :
    (s.raiseError sev e info).fault = faultAfter sev e s.fault := rfl
@[simp] theorem raiseError_pay (sev : Severity) (e : ErrorKind) (info : BitVec 8) :
    (s.raiseError sev e info).pay = s.pay := rfl
@[simp] theorem raiseError_fb (sev : Severity) (e : ErrorKind) (info : BitVec 8) :
    (s.raiseError sev e info).fb = s.fb := rfl
@[simp] theorem raiseError_out (sev : Severity) (e : ErrorKind) (info : BitVec 8) :
    (s.raiseError sev e info).out = s.out := rfl
@[simp] theorem raiseError_img (sev : Severity) (e : ErrorKind) (info : BitVec 8) :
    (s.raiseError sev e info).img = s.img := rfl
@[simp] theorem raiseError_result (sev : Severity) (e : ErrorKind) (info : BitVec 8) :
    (s.raiseError sev e info).result = .none := rfl
@[simp] theorem raiseError_port (sev : Severity) (e : ErrorKind) (info : BitVec 8) :
    (s.raiseError sev e info).port = s.port := rfl

/-! `acceptFrame` -/

@[simp] theorem acceptFrame_rows (valid : List Bit) (npad : Nat) :
    (s.acceptFrame valid npad).rows = s.rows := rfl
@[simp] theorem acceptFrame_cols (valid : List Bit) (npad : Nat) :
    (s.acceptFrame valid npad).cols = s.cols := rfl
@[simp] theorem acceptFrame_tlx (valid : List Bit) (npad : Nat) :
    (s.acceptFrame valid npad).tlx = s.tlx := rfl
@[simp] theorem acceptFrame_tly (valid : List Bit) (npad : Nat) :
    (s.acceptFrame valid npad).tly = s.tly := rfl
@[simp] theorem acceptFrame_trx (valid : List Bit) (npad : Nat) :
    (s.acceptFrame valid npad).trx = s.trx := rfl
@[simp] theorem acceptFrame_try_ (valid : List Bit) (npad : Nat) :
    (s.acceptFrame valid npad).try_ = s.try_ := rfl
@[simp] theorem acceptFrame_blx (valid : List Bit) (npad : Nat) :
    (s.acceptFrame valid npad).blx = s.blx := rfl
@[simp] theorem acceptFrame_bly (valid : List Bit) (npad : Nat) :
    (s.acceptFrame valid npad).bly = s.bly := rfl
@[simp] theorem acceptFrame_c (valid : List Bit) (npad : Nat) :
    (s.acceptFrame valid npad).c = s.c := rfl
@[simp] theorem acceptFrame_d (valid : List Bit) (npad : Nat) :
    (s.acceptFrame valid npad).d = s.d := rfl
@[simp] theorem acceptFrame_w (valid : List Bit) (npad : Nat) :
    (s.acceptFrame valid npad).w = s.w := rfl
@[simp] theorem acceptFrame_h (valid : List Bit) (npad : Nat) :
    (s.acceptFrame valid npad).h = s.h := rfl
@[simp] theorem acceptFrame_plen (valid : List Bit) (npad : Nat) :
    (s.acceptFrame valid npad).plen = s.plen := rfl
@[simp] theorem acceptFrame_encOff (valid : List Bit) (npad : Nat) :
    (s.acceptFrame valid npad).encOff = s.encOff := rfl
@[simp] theorem acceptFrame_outLen (valid : List Bit) (npad : Nat) :
    (s.acceptFrame valid npad).outLen = s.outLen + (pack valid).length := rfl
@[simp] theorem acceptFrame_cfgv (valid : List Bit) (npad : Nat) :
    (s.acceptFrame valid npad).cfgv = s.cfgv := rfl
@[simp] theorem acceptFrame_plv (valid : List Bit) (npad : Nat) :
    (s.acceptFrame valid npad).plv = s.plv := rfl
@[simp] theorem acceptFrame_encLast (valid : List Bit) (npad : Nat) :
    (s.acceptFrame valid npad).encLast = s.encLast := rfl
@[simp] theorem acceptFrame_decDone (valid : List Bit) (npad : Nat) :
    (s.acceptFrame valid npad).decDone = decDoneFlag npad s.decDone := rfl
@[simp] theorem acceptFrame_st (valid : List Bit) (npad : Nat) :
    (s.acceptFrame valid npad).st = (acceptStatus npad).code := rfl
@[simp] theorem acceptFrame_err (valid : List Bit) (npad : Nat) :
    (s.acceptFrame valid npad).err = 0#3 := rfl
@[simp] theorem acceptFrame_info (valid : List Bit) (npad : Nat) :
    (s.acceptFrame valid npad).info = 0#8 := rfl
@[simp] theorem acceptFrame_fault (valid : List Bit) (npad : Nat) :
    (s.acceptFrame valid npad).fault = s.fault := rfl
@[simp] theorem acceptFrame_pay (valid : List Bit) (npad : Nat) :
    (s.acceptFrame valid npad).pay = s.pay := rfl
@[simp] theorem acceptFrame_fb (valid : List Bit) (npad : Nat) :
    (s.acceptFrame valid npad).fb = s.fb := rfl
@[simp] theorem acceptFrame_out (valid : List Bit) (npad : Nat) :
    (s.acceptFrame valid npad).out = s.out.store s.outLen (pack valid) := rfl
@[simp] theorem acceptFrame_img (valid : List Bit) (npad : Nat) :
    (s.acceptFrame valid npad).img = s.img := rfl
@[simp] theorem acceptFrame_result (valid : List Bit) (npad : Nat) :
    (s.acceptFrame valid npad).result = .appended (pack valid).length := rfl
@[simp] theorem acceptFrame_port (valid : List Bit) (npad : Nat) :
    (s.acceptFrame valid npad).port = s.port := rfl

/-! `take` -/

@[simp] theorem take_rows (r : Request) (rest : List Request) : (s.take r rest).rows = s.rows := rfl
@[simp] theorem take_cols (r : Request) (rest : List Request) : (s.take r rest).cols = s.cols := rfl
@[simp] theorem take_tlx (r : Request) (rest : List Request) : (s.take r rest).tlx = s.tlx := rfl
@[simp] theorem take_tly (r : Request) (rest : List Request) : (s.take r rest).tly = s.tly := rfl
@[simp] theorem take_trx (r : Request) (rest : List Request) : (s.take r rest).trx = s.trx := rfl
@[simp] theorem take_try_ (r : Request) (rest : List Request) : (s.take r rest).try_ = s.try_ := rfl
@[simp] theorem take_blx (r : Request) (rest : List Request) : (s.take r rest).blx = s.blx := rfl
@[simp] theorem take_bly (r : Request) (rest : List Request) : (s.take r rest).bly = s.bly := rfl
@[simp] theorem take_c (r : Request) (rest : List Request) : (s.take r rest).c = s.c := rfl
@[simp] theorem take_d (r : Request) (rest : List Request) : (s.take r rest).d = s.d := rfl
@[simp] theorem take_w (r : Request) (rest : List Request) : (s.take r rest).w = s.w := rfl
@[simp] theorem take_h (r : Request) (rest : List Request) : (s.take r rest).h = s.h := rfl
@[simp] theorem take_plen (r : Request) (rest : List Request) : (s.take r rest).plen = s.plen := rfl
@[simp] theorem take_encOff (r : Request) (rest : List Request) :
    (s.take r rest).encOff = s.encOff := rfl
@[simp] theorem take_outLen (r : Request) (rest : List Request) :
    (s.take r rest).outLen = s.outLen := rfl
@[simp] theorem take_cfgv (r : Request) (rest : List Request) : (s.take r rest).cfgv = s.cfgv := rfl
@[simp] theorem take_plv (r : Request) (rest : List Request) : (s.take r rest).plv = s.plv := rfl
@[simp] theorem take_encLast (r : Request) (rest : List Request) :
    (s.take r rest).encLast = s.encLast := rfl
@[simp] theorem take_decDone (r : Request) (rest : List Request) :
    (s.take r rest).decDone = s.decDone := rfl
@[simp] theorem take_st (r : Request) (rest : List Request) : (s.take r rest).st = s.st := rfl
@[simp] theorem take_err (r : Request) (rest : List Request) : (s.take r rest).err = s.err := rfl
@[simp] theorem take_info (r : Request) (rest : List Request) : (s.take r rest).info = s.info := rfl
@[simp] theorem take_fault (r : Request) (rest : List Request) :
    (s.take r rest).fault = s.fault := rfl
@[simp] theorem take_pay (r : Request) (rest : List Request) : (s.take r rest).pay = s.pay := rfl
@[simp] theorem take_fb (r : Request) (rest : List Request) : (s.take r rest).fb = s.fb := rfl
@[simp] theorem take_out (r : Request) (rest : List Request) : (s.take r rest).out = s.out := rfl
@[simp] theorem take_img (r : Request) (rest : List Request) : (s.take r rest).img = r.img := rfl
@[simp] theorem take_result (r : Request) (rest : List Request) :
    (s.take r rest).result = s.result := rfl
@[simp] theorem take_port (r : Request) (rest : List Request) : (s.take r rest).port = rest := rfl

/-! `restart` -/

@[simp] theorem restart_rows : s.restart.rows = 0 := rfl
@[simp] theorem restart_cols : s.restart.cols = 0 := rfl
@[simp] theorem restart_tlx : s.restart.tlx = 0 := rfl
@[simp] theorem restart_tly : s.restart.tly = 0 := rfl
@[simp] theorem restart_trx : s.restart.trx = 0 := rfl
@[simp] theorem restart_try_ : s.restart.try_ = 0 := rfl
@[simp] theorem restart_blx : s.restart.blx = 0 := rfl
@[simp] theorem restart_bly : s.restart.bly = 0 := rfl
@[simp] theorem restart_c : s.restart.c = 0 := rfl
@[simp] theorem restart_d : s.restart.d = 0 := rfl
@[simp] theorem restart_w : s.restart.w = 0 := rfl
@[simp] theorem restart_h : s.restart.h = 0 := rfl
@[simp] theorem restart_plen : s.restart.plen = 0 := rfl
@[simp] theorem restart_encOff : s.restart.encOff = 0 := rfl
@[simp] theorem restart_outLen : s.restart.outLen = 0 := rfl
@[simp] theorem restart_cfgv : s.restart.cfgv = false := rfl
@[simp] theorem restart_plv : s.restart.plv = false := rfl
@[simp] theorem restart_encLast : s.restart.encLast = false := rfl
@[simp] theorem restart_decDone : s.restart.decDone = false := rfl
@[simp] theorem restart_st : s.restart.st = 0#4 := rfl
@[simp] theorem restart_err : s.restart.err = 0#3 := rfl
@[simp] theorem restart_info : s.restart.info = 0#8 := rfl
@[simp] theorem restart_fault : s.restart.fault = 0#3 := rfl
@[simp] theorem restart_pay : s.restart.pay = [] := rfl
@[simp] theorem restart_fb : s.restart.fb = none := rfl
@[simp] theorem restart_out : s.restart.out = [] := rfl
@[simp] theorem restart_img : s.restart.img = s.img := rfl
@[simp] theorem restart_result : s.restart.result = .none := rfl
@[simp] theorem restart_port : s.restart.port = s.port := rfl

end Sys2Proof.Machine.State
end

