-- ==== Sys2Proof/Laws/Ops.lean ====
section
/-! SUPPORT. What each shared operation can do, said once: the proofs cite these and unfold nothing. -/

namespace Sys2Proof.Machine

/-! ## Admission -/

/-- An op that is refused changes the result registers only. -/
theorem performed_refused {i : Instr} {s : State} {why : RefuseReason} (h : admission i s = some why)
    (body : Host.Outcome State Fault Refusal) : performed i s body = .next (s.refuse why) := by
  simp [performed, h]

/-- An op that is admitted is performed. -/
theorem performed_admitted {i : Instr} {s : State} (h : admission i s = none)
    (body : Host.Outcome State Fault Refusal) : performed i s body = body := by
  simp [performed, h]

/-- Everything `performed` can do when it answers a next state. -/
theorem performed_cases {i : Instr} {s t : State} {body : Host.Outcome State Fault Refusal}
    (h : performed i s body = .next t) :
    (∃ why, admission i s = some why ∧ t = s.refuse why) ∨
      (admission i s = none ∧ body = .next t) := by
  unfold performed at h
  split at h
  · rename_i why hw
    exact .inl ⟨why, hw, by simpa using h.symm⟩
  · exact .inr ⟨‹_›, h⟩

/-- The admission tests of an op other than `RST`, in their order. -/
theorem admission_eq {i : Instr} (hi : i ≠ .rst) (s : State) :
    admission i s =
      if s.fault ≠ 0#3 then some .faulted
      else if s.cfgv = false ∧ needsConfig i = true then some .notConfigured
      else ownTest i s := by
  cases i <;> first | exact absurd rfl hi | rfl

/-- Admission of an op other than `RST`: no fault, a configuration where one is needed, and the op's
own test. -/
theorem admission_eq_none_iff {i : Instr} {s : State} (hi : i ≠ .rst) :
    admission i s = none ↔
      s.fault = 0#3 ∧ (s.cfgv = false → needsConfig i = false) ∧ ownTest i s = none := by
  rw [admission_eq hi]
  by_cases hf : s.fault = 0#3 <;> cases hc : s.cfgv <;> cases hn : needsConfig i <;> simp [hf]

/-! ## Reading runs of addresses -/

/-- Every answer of `collect` is the list of the values, in order. -/
theorem collect_eq_some {α : Type} {f : Nat → Option α} {a n : Nat} {xs : List α}
    (h : collect f a n = some xs) : xs.length = n ∧ ∀ j < n, f (a + j) = xs[j]? := by
  induction n generalizing a xs with
  | zero => simp_all [collect]
  | succ n ih =>
    simp only [collect] at h
    split at h
    · rename_i x ys hx hys
      obtain rfl : x :: ys = xs := by simpa using h
      obtain ⟨hl, hj⟩ := ih hys
      refine ⟨by simp [hl], fun j hjn => ?_⟩
      cases j with
      | zero => simpa using hx
      | succ j => simpa [Nat.add_assoc, Nat.add_comm 1 j] using hj j (by omega)
    · cases h

/-- `collect` answers when every argument has a value. -/
theorem collect_of_forall {α : Type} {f : Nat → Option α} {g : Nat → α} {a n : Nat}
    (h : ∀ j < n, f (a + j) = some (g j)) : collect f a n = some ((List.range n).map g) := by
  induction n generalizing a g with
  | zero => rfl
  | succ n ih =>
    have h0 : f a = some (g 0) := by simpa using h 0 (by omega)
    have ht := ih (a := a + 1) (g := fun j => g (j + 1)) fun j hj => by
      simpa [Nat.add_assoc, Nat.add_comm 1 j] using h (j + 1) (by omega)
    simp [collect, h0, ht, List.range_succ_eq_map, Function.comp_def]

/-- PAY is read byte by byte inside `PLEN`. -/
theorem collect_readPay {s : State} {a n : Nat} (h : a + n ≤ s.plen) :
    collect s.readPay a n = some (s.pay.slice a n) := by
  rw [Memory.slice]
  exact collect_of_forall fun j hj => by simp [State.readPay, show a + j < s.plen by omega]

/-- The bytes the next frame carries, when `ENC_OFF` is within the payload. -/
theorem nextBytes_eq {s : State} (h : s.encOff ≤ s.plen) :
    s.nextBytes = some (s.pay.slice s.encOff s.nextCount) :=
  collect_readPay (by unfold State.nextCount; omega)

/-! ## The step -/

/-- Everything a step can do: idle, refuse a reserved word, or run the decoded op. -/
theorem step_cases (s : State) :
    (s.port = [] ∧ step s = .next s) ∨
    (∃ r rest w, s.port = r :: rest ∧ decode r.cmd r.operands = .error (.illegalCommand w) ∧
      step s = .next ((s.take r rest).refuse .illegalCommand)) ∨
    (∃ r rest i, s.port = r :: rest ∧ decode r.cmd r.operands = .ok i ∧
      step s = exec i (s.take r rest)) := by
  cases hp : s.port with
  | nil => exact .inl ⟨rfl, by simp [step, hp]⟩
  | cons r rest =>
    cases hd : decode r.cmd r.operands with
    | ok i => exact .inr (.inr ⟨r, rest, i, rfl, hd, by simp [step, hp, hd]⟩)
    | error e =>
      cases e with
      | illegalCommand w => exact .inr (.inl ⟨r, rest, w, rfl, hd, by simp [step, hp, hd]⟩)

/-! ## What each op can do -/

/-- Everything `RST` does. -/
theorem execRst_eq (s : State) : execRst s = .next s.restart := rfl

/-- Everything `CFG` can do once admitted. -/
theorem execCfg_cases {rows cols tlx tly trx try_ blx bly : Nat} {s t : State}
    (h : execCfg rows cols tlx tly trx try_ blx bly s = .next t) :
    (∃ why, t = s.refuse why) ∨
    (s.fault = 0#3 ∧ s.cfgv = false ∧ ∃ i, cfgCheck rows cols tlx tly trx bly = some i ∧
      t = s.raiseError .fatal .geometryMisconfiguration i) ∨
    (s.fault = 0#3 ∧ s.cfgv = false ∧ cfgCheck rows cols tlx tly trx bly = none ∧
      t = (s.latchConfig rows cols tlx tly trx try_ blx bly).complete .none) := by
  rcases performed_cases h with ⟨why, -, rfl⟩ | ⟨ha, hb⟩
  · exact .inl ⟨why, rfl⟩
  · obtain ⟨hf, -, ho⟩ := (admission_eq_none_iff (by simp)).1 ha
    have hc : s.cfgv = false := by simpa [ownTest] using ho
    split at hb
    · rename_i i hi
      exact .inr (.inl ⟨hf, hc, i, hi, by simpa using hb.symm⟩)
    · exact .inr (.inr ⟨hf, hc, ‹_›, by simpa using hb.symm⟩)

/-- The checks of `CFG` all hold. -/
theorem cfgCheck_eq_none_iff {rows cols tlx tly trx bly : Nat} :
    cfgCheck rows cols tlx tly trx bly = none ↔
      1 ≤ rows ∧ 1 ≤ cols ∧ 256 < rows * cols ∧ (rows * cols - 256) % 8 = 0 ∧ tlx < trx ∧
        tly < bly := by
  unfold cfgCheck
  split_ifs <;> simp_all

/-- An op that only returns a record, or a report, changes the result registers only. -/
theorem execGeoPt_cases {row col : Nat} {s t : State} (h : execGeoPt row col s = .next t) :
    (∃ why, t = s.refuse why) ∨
      t = s.complete (.point (s.samplePt row col).1 (s.samplePt row col).2) := by
  rcases performed_cases h with ⟨why, -, rfl⟩ | ⟨-, hb⟩
  · exact .inl ⟨why, rfl⟩
  · exact .inr (by simpa using hb.symm)

theorem execGeoRect_cases {s t : State} (h : execGeoRect s = .next t) :
    (∃ why, t = s.refuse why) ∨ t = s.complete (.rect s.tlx s.tly s.w s.h) := by
  rcases performed_cases h with ⟨why, -, rfl⟩ | ⟨-, hb⟩
  · exact .inl ⟨why, rfl⟩
  · exact .inr (by simpa using hb.symm)

theorem execGeoPitch_cases {s t : State} (h : execGeoPitch s = .next t) :
    (∃ why, t = s.refuse why) ∨ t = s.complete (.pitch s.w s.cols s.h s.rows) := by
  rcases performed_cases h with ⟨why, -, rfl⟩ | ⟨-, hb⟩
  · exact .inl ⟨why, rfl⟩
  · exact .inr (by simpa using hb.symm)

theorem execDig_cases {b : List Bit} {s t : State} (h : execDig b s = .next t) :
    (∃ why, t = s.refuse why) ∨
    (digest b = none ∧
      t = s.raiseError .report .invalidBitLength (BitVec.ofNat 8 (b.length % 8))) ∨
    (∃ d, digest b = some d ∧ t = s.complete (.digest d)) := by
  rcases performed_cases h with ⟨why, -, rfl⟩ | ⟨-, hb⟩
  · exact .inl ⟨why, rfl⟩
  · split at hb
    · exact .inr (.inl ⟨‹_›, by simpa using hb.symm⟩)
    · exact .inr (.inr ⟨_, ‹_›, by simpa using hb.symm⟩)

theorem execCls_cases {v : Byte} {s t : State} (h : execCls v s = .next t) :
    (∃ why, t = s.refuse why) ∨ t = s.complete (.cell (classify v)) := by
  rcases performed_cases h with ⟨why, -, rfl⟩ | ⟨-, hb⟩
  · exact .inl ⟨why, rfl⟩
  · exact .inr (by simpa using hb.symm)

/-- Everything `ENC.LOAD` can do. -/
theorem execEncLoad_cases {bytes : List Byte} {s t : State} (h : execEncLoad bytes s = .next t) :
    (∃ why, t = s.refuse why) ∨
    (s.fault = 0#3 ∧ s.cfgv = true ∧ s.plv = false ∧ t = (s.loadPayload bytes).complete .none) := by
  rcases performed_cases h with ⟨why, -, rfl⟩ | ⟨ha, hb⟩
  · exact .inl ⟨why, rfl⟩
  · obtain ⟨hf, hc, ho⟩ := (admission_eq_none_iff (by simp)).1 ha
    exact .inr ⟨hf, by simpa [needsConfig] using hc, by simpa [ownTest] using ho,
      by simpa using hb.symm⟩

/-- Everything `ENC.NEXT` can do. -/
theorem execEncNext_cases {s t : State} (h : execEncNext s = .next t) :
    (∃ why, t = s.refuse why) ∨
    (s.fault = 0#3 ∧ s.cfgv = true ∧ s.plv = true ∧
      (s.nextCount = 0 ∨ ∃ p, s.nextBytes = some p ∧ makeFrame s.d p = none) ∧
      t = s.raiseError .fatal .invalidBitLength 0#8) ∨
    (s.fault = 0#3 ∧ s.cfgv = true ∧ s.plv = true ∧ s.nextCount ≠ 0 ∧
      ∃ p frame, s.nextBytes = some p ∧ makeFrame s.d p = some frame ∧
        t = (s.emitFrame frame s.nextCount).complete
          (.emitted s.nextCount (encLastFlag s.nextCount s.db))) := by
  rcases performed_cases h with ⟨why, -, rfl⟩ | ⟨ha, hb⟩
  · exact .inl ⟨why, rfl⟩
  · obtain ⟨hf, hc, ho⟩ := (admission_eq_none_iff (by simp)).1 ha
    have hc : s.cfgv = true := by simpa [needsConfig] using hc
    have hp : s.plv = true := by simpa [ownTest] using ho
    split at hb
    · exact .inr (.inl ⟨hf, hc, hp, .inl ‹_›, by simpa using hb.symm⟩)
    · split at hb
      · cases hb
      · split at hb
        · exact .inr (.inl ⟨hf, hc, hp, .inr ⟨_, ‹_›, ‹_›⟩, by simpa using hb.symm⟩)
        · exact .inr (.inr ⟨hf, hc, hp, ‹_›, _, _, ‹_›, ‹_›, by simpa using hb.symm⟩)

/-- Everything `checkFrame` can answer. -/
theorem checkFrame_cases (data chk : List Cell) :
    (Cell.pad ∈ chk ∧ checkFrame data chk = .error (.malformedFrame, 1#8)) ∨
    (Cell.pad ∉ chk ∧ (validBits data).length = 0 ∧
      checkFrame data chk = .error (.malformedFrame, 2#8)) ∨
    (Cell.pad ∉ chk ∧ (validBits data).length % 8 ≠ 0 ∧
      checkFrame data chk = .error (.malformedFrame, 3#8)) ∨
    (Cell.pad ∉ chk ∧ (validBits data).length ≠ 0 ∧ (validBits data).length % 8 = 0 ∧
      digest (validBits data) ≠ some (validBits chk) ∧
      checkFrame data chk = .error (.checksumMismatch, 0#8)) ∨
    (Cell.pad ∉ chk ∧ (validBits data).length ≠ 0 ∧ (validBits data).length % 8 = 0 ∧
      digest (validBits data) = some (validBits chk) ∧
      checkFrame data chk = .ok (validBits data)) := by
  unfold checkFrame
  split_ifs <;> simp_all

/-- Everything `DEC.FRAME` can do. -/
theorem execDecFrame_cases {s t : State} (h : execDecFrame s = .next t) :
    (∃ why, t = s.refuse why) ∨
    (s.fault = 0#3 ∧ s.cfgv = true ∧ s.decDone = false ∧
      ∃ cells, s.sampled = some cells ∧ t = s.decodeCells cells) := by
  rcases performed_cases h with ⟨why, -, rfl⟩ | ⟨ha, hb⟩
  · exact .inl ⟨why, rfl⟩
  · obtain ⟨hf, hc, ho⟩ := (admission_eq_none_iff (by simp)).1 ha
    split at hb
    · cases hb
    · exact .inr ⟨hf, by simpa [needsConfig] using hc, by simpa [ownTest] using ho, _, ‹_›,
        by simpa using hb.symm⟩

/-- Everything the decoder does with a sampled string: it raises a recoverable error, or accepts. -/
theorem decodeCells_cases (s : State) (cells : List Cell) :
    (∃ e info, checkFrame (cells.take s.d) (cells.drop s.d) = .error (e, info) ∧
      s.decodeCells cells = s.raiseError .recoverable e info) ∨
    (checkFrame (cells.take s.d) (cells.drop s.d) = .ok (validBits (cells.take s.d)) ∧
      s.decodeCells cells =
        s.acceptFrame (validBits (cells.take s.d)) (padCount (cells.take s.d))) := by
  rcases checkFrame_cases (cells.take s.d) (cells.drop s.d) with
    ⟨-, h⟩ | ⟨-, -, h⟩ | ⟨-, -, h⟩ | ⟨-, -, -, -, h⟩ | ⟨-, -, -, -, h⟩
  · exact .inl ⟨_, _, h, by simp [State.decodeCells, h]⟩
  · exact .inl ⟨_, _, h, by simp [State.decodeCells, h]⟩
  · exact .inl ⟨_, _, h, by simp [State.decodeCells, h]⟩
  · exact .inl ⟨_, _, h, by simp [State.decodeCells, h]⟩
  · exact .inr ⟨h, by simp [State.decodeCells, h]⟩

end Sys2Proof.Machine
end

