-- ==== Sys2Proof/Laws/Exec.lean ====
section
/-! SUPPORT. What `exec` can do, said once over all ten ops, and the few facts about a `DEC.FRAME` and
about the hosts' loops that proofs over whole runs cite. -/

namespace Sys2Proof.Machine

/-- Everything `exec` can do when it answers a next state: reset; refuse; configure or fail to; return a
result; load; emit a frame or fail to; accept a frame or reject it. -/
theorem exec_cases {i : Instr} {s t : State} (h : exec i s = .next t) :
    (i = .rst ∧ t = s.restart) ∨
    (i ≠ .rst ∧ ∃ why, t = s.refuse why) ∨
    (∃ rows cols tlx tly trx try_ blx bly, i = .cfg rows cols tlx tly trx try_ blx bly ∧
      s.fault = 0#3 ∧ s.cfgv = false ∧
      ((∃ info, t = s.raiseError .fatal .geometryMisconfiguration info) ∨
        (cfgCheck rows cols tlx tly trx bly = none ∧
          t = (s.latchConfig rows cols tlx tly trx try_ blx bly).complete .none))) ∨
    (((∃ row col, i = .geoPt row col) ∨ i = .geoRect ∨ i = .geoPitch ∨ (∃ b, i = .dig b) ∨
        (∃ v, i = .cls v)) ∧
      ((∃ r, t = s.complete r) ∨
        ((∃ b, i = .dig b) ∧ ∃ info, t = s.raiseError .report .invalidBitLength info))) ∨
    (∃ bytes, i = .encLoad bytes ∧ s.fault = 0#3 ∧ s.cfgv = true ∧ s.plv = false ∧
      t = (s.loadPayload bytes).complete .none) ∨
    (i = .encNext ∧ s.fault = 0#3 ∧ s.cfgv = true ∧ s.plv = true ∧
      (((s.nextCount = 0 ∨ ∃ p, s.nextBytes = some p ∧ makeFrame s.d p = none) ∧
          t = s.raiseError .fatal .invalidBitLength 0#8) ∨
        (s.nextCount ≠ 0 ∧ ∃ p frame, s.nextBytes = some p ∧ makeFrame s.d p = some frame ∧
          t = (s.emitFrame frame s.nextCount).complete
            (.emitted s.nextCount (encLastFlag s.nextCount s.db))))) ∨
    (i = .decFrame ∧ s.fault = 0#3 ∧ s.cfgv = true ∧ s.decDone = false ∧
      ∃ cells, s.sampled = some cells ∧
        ((∃ e info, (e = .malformedFrame ∨ e = .checksumMismatch) ∧
            t = s.raiseError .recoverable e info) ∨
          ((validBits (cells.take s.d)).length ≠ 0 ∧ (validBits (cells.take s.d)).length % 8 = 0 ∧
            t = s.acceptFrame (validBits (cells.take s.d)) (padCount (cells.take s.d))))) := by
  cases i with
  | rst => exact .inl ⟨rfl, by cases h; rfl⟩
  | cfg rows cols tlx tly trx try_ blx bly =>
    rcases execCfg_cases h with ⟨w, rfl⟩ | ⟨h1, h2, j, h3, rfl⟩ | ⟨h1, h2, h3, rfl⟩
    · exact .inr (.inl ⟨by simp, _, rfl⟩)
    · exact .inr (.inr (.inl ⟨_, _, _, _, _, _, _, _, rfl, h1, h2, .inl ⟨_, rfl⟩⟩))
    · exact .inr (.inr (.inl ⟨_, _, _, _, _, _, _, _, rfl, h1, h2, .inr ⟨h3, rfl⟩⟩))
  | geoPt row col =>
    rcases execGeoPt_cases h with ⟨w, rfl⟩ | rfl
    · exact .inr (.inl ⟨by simp, _, rfl⟩)
    · exact .inr (.inr (.inr (.inl ⟨by simp, .inl ⟨_, rfl⟩⟩)))
  | geoRect =>
    rcases execGeoRect_cases h with ⟨w, rfl⟩ | rfl
    · exact .inr (.inl ⟨by simp, _, rfl⟩)
    · exact .inr (.inr (.inr (.inl ⟨by simp, .inl ⟨_, rfl⟩⟩)))
  | geoPitch =>
    rcases execGeoPitch_cases h with ⟨w, rfl⟩ | rfl
    · exact .inr (.inl ⟨by simp, _, rfl⟩)
    · exact .inr (.inr (.inr (.inl ⟨by simp, .inl ⟨_, rfl⟩⟩)))
  | dig b =>
    rcases execDig_cases h with ⟨w, rfl⟩ | ⟨_, rfl⟩ | ⟨_, _, rfl⟩
    · exact .inr (.inl ⟨by simp, _, rfl⟩)
    · exact .inr (.inr (.inr (.inl ⟨by simp, .inr ⟨⟨_, rfl⟩, _, rfl⟩⟩)))
    · exact .inr (.inr (.inr (.inl ⟨by simp, .inl ⟨_, rfl⟩⟩)))
  | cls v =>
    rcases execCls_cases h with ⟨w, rfl⟩ | rfl
    · exact .inr (.inl ⟨by simp, _, rfl⟩)
    · exact .inr (.inr (.inr (.inl ⟨by simp, .inl ⟨_, rfl⟩⟩)))
  | encLoad bytes =>
    rcases execEncLoad_cases h with ⟨w, rfl⟩ | ⟨h1, h2, h3, rfl⟩
    · exact .inr (.inl ⟨by simp, _, rfl⟩)
    · exact .inr (.inr (.inr (.inr (.inl ⟨_, rfl, h1, h2, h3, rfl⟩))))
  | encNext =>
    rcases execEncNext_cases h with ⟨w, rfl⟩ | ⟨h1, h2, h3, h4, rfl⟩ |
      ⟨h1, h2, h3, h4, p, f, h5, h6, rfl⟩
    · exact .inr (.inl ⟨by simp, _, rfl⟩)
    · exact .inr (.inr (.inr (.inr (.inr (.inl ⟨rfl, h1, h2, h3, .inl ⟨h4, rfl⟩⟩)))))
    · exact .inr (.inr (.inr (.inr (.inr (.inl ⟨rfl, h1, h2, h3, .inr ⟨h4, p, f, h5, h6, rfl⟩⟩)))))
  | decFrame =>
    rcases execDecFrame_cases h with ⟨why, rfl⟩ | ⟨hf, hc, hd, cells, hs, rfl⟩
    · exact .inr (.inl ⟨by simp, _, rfl⟩)
    · refine .inr (.inr (.inr (.inr (.inr (.inr ⟨rfl, hf, hc, hd, cells, hs, ?_⟩)))))
      simp only [State.decodeCells]
      rcases checkFrame_cases (cells.take s.d) (cells.drop s.d) with
        ⟨_, h⟩ | ⟨_, _, h⟩ | ⟨_, _, h⟩ | ⟨_, _, _, _, h⟩ | ⟨_, h1, h2, _, h⟩
      · exact .inl ⟨_, _, .inl rfl, by rw [h]⟩
      · exact .inl ⟨_, _, .inl rfl, by rw [h]⟩
      · exact .inl ⟨_, _, .inl rfl, by rw [h]⟩
      · exact .inl ⟨_, _, .inr rfl, by rw [h]⟩
      · exact .inr ⟨h1, h2, by rw [h]⟩

/-! ## The sampled string -/

/-- An image that shows a string is sampled as that string. -/
theorem sampled_of_shows {s : State} {cells : List Cell} (h : s.shows cells) :
    s.sampled = some cells := by
  obtain ⟨hl, h⟩ := h
  have hcell : ∀ k (hk : k < s.c), ∃ v, s.sampleCell k = some v ∧ cells[k]? = some (classify v) := by
    intro k hk
    have := h k hk
    rw [List.getElem?_eq_getElem (by omega)] at this ⊢
    cases hs : s.sampleCell k with
    | none => simp [hs] at this
    | some v => exact ⟨v, rfl, by simpa [hs, eq_comm] using this⟩
  have hcol := collect_of_forall (f := s.sampleCell) (g := fun k => (s.sampleCell k).getD 0)
    (a := 0) (n := s.c) (by
      intro j hj
      obtain ⟨v, hv, -⟩ := hcell j hj
      simp [hv])
  rw [State.sampled, hcol, Option.map_some]
  congr 1
  apply List.ext_getElem?
  intro k
  by_cases hk : k < s.c
  · obtain ⟨v, hv, hc⟩ := hcell k hk
    simp [List.getElem?_range hk, hv, hc]
  · rw [List.getElem?_eq_none (by simp; omega), List.getElem?_eq_none (by omega)]

/-- A sampled string is shown by the image. -/
theorem shows_of_sampled {s : State} {cells : List Cell} (h : s.sampled = some cells) :
    s.shows cells := by
  unfold State.sampled at h
  cases hc : collect s.sampleCell 0 s.c with
  | none => simp [hc] at h
  | some vs =>
    obtain ⟨hl, hj⟩ := collect_eq_some hc
    simp only [hc, Option.map_some, Option.some.injEq] at h
    subst h
    refine ⟨by simp [hl], fun k hk => ?_⟩
    have := hj k hk
    rw [Nat.zero_add] at this
    rw [this, List.getElem?_map]

/-- An admitted `DEC.FRAME` decodes the string the image shows. -/
theorem exec_decFrame_of_shows {s : State} {cells : List Cell} (hf : s.fault = 0#3)
    (hc : s.cfgv = true) (hd : s.decDone = false) (h : s.shows cells) :
    exec .decFrame s = .next (s.decodeCells cells) := by
  have ha : admission .decFrame s = none := by
    rw [admission_eq_none_iff (by simp)]
    simp [hf, hc, hd, ownTest]
  simp [exec, execDecFrame, performed_admitted ha, sampled_of_shows h]

/-- Appending to OUT appends to the byte string it holds. -/
theorem output_append {s : State} (hw : s.out.wf) (bs : List Byte) :
    (s.out.store s.outLen bs).slice 0 (s.outLen + bs.length) = s.output ++ bs := by
  rw [Memory.slice_add, Nat.zero_add, Memory.slice_store hw]
  congr 1
  exact Memory.slice_congr fun j hj => Memory.read_store_of_outside _ _ (.inl (by omega))

/-- A painted image is canonical. -/
theorem paintFrom_wf (s : State) (r : Config.Render) (frame : List Cell) :
    ∀ (m : Memory) (k : Nat), m.wf → (s.paintFrom r m k frame).wf := by
  induction frame with
  | nil => exact fun _ _ h => h
  | cons x xs ih => exact fun m k h => ih _ _ (Memory.wf_write h _ _)

/-! ## The hosts' loops -/

/-- `ENC.ALL` stops where no payload byte is left. -/
theorem encAllFrom_done {fuel : Nat} {s : State} (h : s.encOff = s.plen) :
    encAllFrom fuel s = .next ([], s) := by
  cases fuel <;> simp [encAllFrom, h]

/-- `ENC.ALL` stops after a terminal frame. -/
theorem encAllFrom_last {fuel : Nat} {s t : State} (h : s.encOff ≠ s.plen)
    (he : exec .encNext s = .next t) (hs : t.st = 0#4) (hl : t.encLast = true) :
    encAllFrom (fuel + 1) s = .next (t.fb.toList, t) := by
  simp [encAllFrom, h, he, hs, hl, Status.code]

/-- `ENC.ALL` goes on after a full frame. -/
theorem encAllFrom_more {fuel : Nat} {s t u : State} {frames : List (List Cell)}
    (h : s.encOff ≠ s.plen) (he : exec .encNext s = .next t) (hs : t.st = 0#4)
    (hl : t.encLast = false) (hr : encAllFrom fuel t = .next (frames, u)) :
    encAllFrom (fuel + 1) s = .next (t.fb.toList ++ frames, u) := by
  simp [encAllFrom, h, he, hs, hl, Status.code, hr]

variable {o : Outside}

/-- Everything a running transfer can do in one iteration: be stopped before the capture, or decode a
capture and act on its outcome. -/
theorem Transfer.step_cases {t u : Transfer} (hp : t.phase = .running) (h : t.step o = .next u) :
    (o.stopsBeforeCapture t.iter = true ∧ u = { t with phase := .stopped }) ∨
    (o.stopsBeforeCapture t.iter = false ∧ ∃ d,
      exec .decFrame { t.dec with img := o.channel t.iter t.enc.fb } = .next d ∧
      t.act o d = .next u) := by
  simp only [Transfer.step, hp] at h
  cases hc : o.stopsBeforeCapture t.iter with
  | true => exact .inl ⟨rfl, by simpa [hc] using h.symm⟩
  | false =>
    simp only [hc, Bool.false_eq_true, if_false] at h
    split at h
    · cases h
    · cases h
    · exact .inr ⟨rfl, _, ‹_›, h⟩

/-- Everything the hosts can do after a `DEC.FRAME`. -/
theorem Transfer.act_cases {t u : Transfer} {d : State} (h : t.act o d = .next u) :
    (d.st = 1#4 ∧ o.stopsBeforeAdvance t.iter = true ∧
      u = { t with dec := d, iter := t.iter + 1, phase := .stopped }) ∨
    (d.st = 1#4 ∧ o.stopsBeforeAdvance t.iter = false ∧ ∃ e, exec .encNext t.enc = .next e ∧
      u = { t with enc := e, dec := d, iter := t.iter + 1, retries := 0 }) ∨
    (d.st = 2#4 ∧ u = { t with dec := d, iter := t.iter + 1, phase := .finished }) ∨
    (d.st = 3#4 ∧ u = { t with dec := d, iter := t.iter + 1, retries := t.retries + 1,
                               phase := retryPhase o.retryMax (t.retries + 1) }) ∨
    (d.st ≠ 1#4 ∧ d.st ≠ 2#4 ∧ d.st ≠ 3#4 ∧
      u = { t with dec := d, iter := t.iter + 1, phase := .failed }) := by
  unfold Transfer.act hostMove at h
  by_cases h1 : d.st = 1#4
  · simp only [Status.code, h1, if_true] at h
    cases ha : o.stopsBeforeAdvance t.iter with
    | true => exact .inl ⟨h1, rfl, by simpa [ha] using h.symm⟩
    | false =>
      simp only [ha, Bool.false_eq_true, if_false] at h
      split at h
      · cases h
      · cases h
      · exact .inr (.inl ⟨h1, rfl, _, ‹_›, by cases h; rfl⟩)
  · by_cases h2 : d.st = 2#4
    · simp only [Status.code, h2] at h
      exact .inr (.inr (.inl ⟨h2, by cases h; rfl⟩))
    · by_cases h3 : d.st = 3#4
      · simp only [Status.code, h3] at h
        exact .inr (.inr (.inr (.inl ⟨h3, by cases h; rfl⟩)))
      · simp only [Status.code, h1, h2, h3, if_false] at h
        exact .inr (.inr (.inr (.inr ⟨h1, h2, h3, by cases h; rfl⟩)))

/-- An iteration in which no stop signal comes before the capture. -/
theorem Transfer.step_acts {t : Transfer} {d : State} (hp : t.phase = .running)
    (hc : o.stopsBeforeCapture t.iter = false)
    (hd : exec .decFrame { t.dec with img := o.channel t.iter t.enc.fb } = .next d) :
    t.step o = t.act o d := by
  simp [Transfer.step, hp, hc, hd]

/-- The frame is accepted and is not terminal, and no stop signal comes. -/
theorem Transfer.act_advance {t : Transfer} {d e : State} (hs : d.st = 1#4)
    (ha : o.stopsBeforeAdvance t.iter = false) (he : exec .encNext t.enc = .next e) :
    t.act o d = .next { t with enc := e, dec := d, iter := t.iter + 1, retries := 0 } := by
  simp [Transfer.act, hs, show hostMove 1#4 = .sendAdvance by decide, ha, he]

/-- The frame is accepted and is not terminal, and the host is stopped. -/
theorem Transfer.act_stopped {t : Transfer} {d : State} (hs : d.st = 1#4)
    (ha : o.stopsBeforeAdvance t.iter = true) :
    t.act o d = .next { t with dec := d, iter := t.iter + 1, phase := .stopped } := by
  simp [Transfer.act, hs, show hostMove 1#4 = .sendAdvance by decide, ha]

/-- The terminal frame is accepted. -/
theorem Transfer.act_terminal {t : Transfer} {d : State} (hs : d.st = 2#4) :
    t.act o d = .next { t with dec := d, iter := t.iter + 1, phase := .finished } := by
  simp [Transfer.act, hs, show hostMove 2#4 = .stop by decide]

/-- The frame is rejected. -/
theorem Transfer.act_retry {t : Transfer} {d : State} (hs : d.st = 3#4) :
    t.act o d = .next { t with dec := d, iter := t.iter + 1, retries := t.retries + 1,
                               phase := retryPhase o.retryMax (t.retries + 1) } := by
  simp [Transfer.act, hs, show hostMove 3#4 = .captureAgain by decide]

/-- A run of one more iteration, from its first. -/
theorem Transfer.run_succ {n : Nat} {t u : Transfer} (h : t.step o = .next u) :
    Transfer.run o (n + 1) t = Transfer.run o n u := by
  rw [Transfer.run, h]

/-- A run of one more iteration, at its end. -/
theorem Transfer.run_snoc {n : Nat} {t u v : Transfer} (h : Transfer.run o n t = .next u)
    (hv : u.step o = .next v) : Transfer.run o (n + 1) t = .next v := by
  induction n generalizing t with
  | zero =>
    cases h
    rw [Transfer.run_succ hv]
    rfl
  | succ n ih =>
    cases hs : t.step o with
    | next w =>
      rw [Transfer.run_succ hs] at h ⊢
      exact ih h
    | fault f => rw [Transfer.run, hs] at h; cases h
    | refused f => rw [Transfer.run, hs] at h; cases h

end Sys2Proof.Machine
end

