-- ==== Sys2Proof/Laws/PerInstr.lean ====
section
/-! SUPPORT. Statements made per op: the command word of an op is the one the opcode map gives its
mnemonic (spec/30_encoding.md R91), and no other row of the map matches it. -/

namespace Sys2Proof.Laws.CommandWord

/-- The mnemonics of the rows of the opcode map that match a command word. -/
def rowsOf (cmd : Byte) : List String :=
  (opcodeTable.filter fun r => r.selects cmd).map OpcodeRow.mnemonic

/-- The one row of the opcode map that matches the op's command word bears the op's mnemonic. -/
def Statement (i : Instr) : Prop := rowsOf (encode i).1 = [i.mnemonic]

theorem rst : Statement .rst := show rowsOf 0x01 = ["RST"] by decide

theorem cfg (rows cols tlx tly trx try_ blx bly : Nat) :
    Statement (.cfg rows cols tlx tly trx try_ blx bly) := show rowsOf 0x02 = ["CFG"] by decide

theorem geoPt (row col : Nat) : Statement (.geoPt row col) := show rowsOf 0x10 = ["GEO.PT"] by decide

theorem geoRect : Statement .geoRect := show rowsOf 0x11 = ["GEO.RECT"] by decide

theorem geoPitch : Statement .geoPitch := show rowsOf 0x12 = ["GEO.PITCH"] by decide

theorem dig (b : List Bit) : Statement (.dig b) := show rowsOf 0x20 = ["DIG"] by decide

theorem cls (v : Byte) : Statement (.cls v) := show rowsOf 0x30 = ["CLS"] by decide

theorem encLoad (s : List Byte) : Statement (.encLoad s) := show rowsOf 0x40 = ["ENC.LOAD"] by decide

theorem encNext : Statement .encNext := show rowsOf 0x41 = ["ENC.NEXT"] by decide

theorem decFrame : Statement .decFrame := show rowsOf 0x50 = ["DEC.FRAME"] by decide

end Sys2Proof.Laws.CommandWord
end

