-- ==== Sys2Proof/Tests/Slice0.lean ====
section
/-! SUPPORT. The model's own tests: one refused term per well-formedness check, the command words
written out, the vectors of spec/95_test_vectors.md, and for every statement with hypotheses a witness
that meets them, clause by clause. Every expected value is the spec's. -/

namespace Sys2Proof.Tests

open Sys2Proof.Machine

/-! ## Well-formedness: one ill-formed op for each check (30_encoding.md R94, 00_scope.md R8) -/

/-- The narrowest ports R8 lets an implementation have, and payloads of 2 bytes: the largest grid is
254 by 252 cells, with 63752 data cells. -/
def narrow : Config.Limits :=
  { dimW := some 8, coordW := some 11, plenMax := some 2, digMax := some 63752 }

theorem narrow_legal : narrow.legal := by
  refine ⟨fun k h => ?_, fun k h => ?_, fun rows cols hr hc h256 h8 => ?_⟩
  · obtain rfl : 8 = k := by simpa [narrow] using h
    decide
  · obtain rfl : 11 = k := by simpa [narrow] using h
    decide
  · simp only [narrow, fitsWidth, withinMax, decide_eq_true_eq, Config.digestBits,
      Config.byteBits] at *
    by_contra hn
    have h1 : 252 ≤ rows := by
      by_contra h
      have := Nat.mul_le_mul (show rows ≤ 251 by omega) (show cols ≤ 255 by omega)
      omega
    have h2 : 252 ≤ cols := by
      by_contra h
      have := Nat.mul_le_mul (show rows ≤ 255 by omega) (show cols ≤ 251 by omega)
      omega
    interval_cases rows <;> interval_cases cols <;> omega

theorem test_limits_dim : ¬({ narrow with dimW := some 7 } : Config.Limits).legal :=
  fun h => absurd (h.1 7 rfl) (by decide)
theorem test_limits_coord : ¬({ narrow with coordW := some 10 } : Config.Limits).legal :=
  fun h => absurd (h.2.1 10 rfl) (by decide)
theorem test_limits_dig : ¬({ narrow with digMax := some 63751 } : Config.Limits).legal :=
  fun h => absurd (h.2.2 254 252 (by decide) (by decide) (by decide) (by decide)) (by decide)

theorem test_wf_accepts_cfg :
    (Instr.cfg 255 255 2047 2047 2047 2047 2047 2047).wf narrow = true := by decide
theorem test_wf_rows : (Instr.cfg 256 1 0 0 0 0 0 0).wf narrow = false := by decide
theorem test_wf_cols : (Instr.cfg 1 256 0 0 0 0 0 0).wf narrow = false := by decide
theorem test_wf_tlx : (Instr.cfg 1 1 2048 0 0 0 0 0).wf narrow = false := by decide
theorem test_wf_tly : (Instr.cfg 1 1 0 2048 0 0 0 0).wf narrow = false := by decide
theorem test_wf_trx : (Instr.cfg 1 1 0 0 2048 0 0 0).wf narrow = false := by decide
theorem test_wf_try : (Instr.cfg 1 1 0 0 0 2048 0 0).wf narrow = false := by decide
theorem test_wf_blx : (Instr.cfg 1 1 0 0 0 0 2048 0).wf narrow = false := by decide
theorem test_wf_bly : (Instr.cfg 1 1 0 0 0 0 0 2048).wf narrow = false := by decide
theorem test_wf_row : (Instr.geoPt 256 0).wf narrow = false := by decide
theorem test_wf_col : (Instr.geoPt 0 256).wf narrow = false := by decide
/-- A bit string one longer than the port takes, whatever its bits. -/
theorem narrow_refuses_dig {b : List Bit} (h : b.length = 63753) :
    (Instr.dig b).wf narrow = false := by
  simp [Instr.wf, withinMax, narrow, h]

theorem test_wf_dig : (Instr.dig (List.replicate 63753 true)).wf narrow = false :=
  narrow_refuses_dig List.length_replicate
theorem test_wf_payload : (Instr.encLoad [1, 2, 3]).wf narrow = false := by decide
theorem test_wf_unbounded : (Instr.cfg 16 16 99 99 99 99 99 99).wf .unbounded = true := by decide

/-! ## The command words, bit by bit from the table of R91 -/

/-- An operand record with a different value in every field, so that a swapped field shows. -/
def operands : OperandRecord :=
  { rows := 1, cols := 2, tlx := 3, tly := 4, trx := 5, try_ := 6, blx := 7, bly := 8, row := 9,
    col := 10, b := [true], v := 11, s := [12] }

theorem test_decode_rst : decode 0b00000001 operands = .ok .rst := by decide
theorem test_decode_cfg : decode 0b00000010 operands = .ok (.cfg 1 2 3 4 5 6 7 8) := by decide
theorem test_decode_geo_pt : decode 0b00010000 operands = .ok (.geoPt 9 10) := by decide
theorem test_decode_geo_rect : decode 0b00010001 operands = .ok .geoRect := by decide
theorem test_decode_geo_pitch : decode 0b00010010 operands = .ok .geoPitch := by decide
theorem test_decode_dig : decode 0b00100000 operands = .ok (.dig [true]) := by decide
theorem test_decode_cls : decode 0b00110000 operands = .ok (.cls 11) := by decide
theorem test_decode_enc_load : decode 0b01000000 operands = .ok (.encLoad [12]) := by decide
theorem test_decode_enc_next : decode 0b01000001 operands = .ok .encNext := by decide
theorem test_decode_dec_frame : decode 0b01010000 operands = .ok .decFrame := by decide

/-- Reserved words of 95_test_vectors.md section 2.9. -/
theorem test_decode_reserved :
    ∀ cmd ∈ [0x00#8, 0x03#8, 0x13#8, 0x21#8, 0x42#8, 0x51#8, 0x60#8, 0xFF#8],
      decode cmd operands = .error (.illegalCommand cmd) := by decide

/-- R91: no two rows of the opcode map match a common word, with every bit matched. -/
theorem test_opcode_rows_disjoint :
    opcodeTable.Pairwise (fun r r' => r.value ≠ r'.value) ∧ ∀ r ∈ opcodeTable, r.mask = 0xFF := by
  decide

theorem test_fetch_word : decodeTableWord 8 0x41 = some .encNext ∧
    step (State.reset.withFetchWord 8 0x12) = exec .geoPitch State.reset := ⟨by decide, rfl⟩

/-! ## Helpers -/

/-- `n` cells from a number, most significant digit first: 1 is `One`, 0 is `Zero`. -/
def zeroOne (n x : Nat) : List Cell :=
  (List.range n).map fun k => if x.testBit (n - 1 - k) then .one else .zero

/-- Frame A of 95_test_vectors.md section 2.7, its 16 rows read as one number. -/
def frameA : List Cell :=
  zeroOne 272 0x414238164fbd17603d73f696b8b4d72664d735bb6a7c88577687fd2ae33fd6964153

/-- Frame B of 95_test_vectors.md section 2.7: `01000011`, eight `Pad`, and the checksum cells. -/
def frameB : List Cell :=
  zeroOne 8 0b01000011 ++ List.replicate 8 .pad ++
    zeroOne 256 0x6b23c0d5f35d1b11f9b683f0b0a617355deb11277d91ae091d399c655b87940d

/-- A block with `C = 272`, `D = 16`, `DB = 2` as in section 3, on one row of one-pixel cells. -/
def ready : State := State.reset.latchConfig 1 272 0 0 272 0 0 1

/-- The same with the payload `41 42 43` loaded. -/
def loaded : State := ready.loadPayload [0x41, 0x42, 0x43]

/-- The same after its two frames: no payload byte is left. -/
def drained : State := { loaded with encOff := 3, encLast := true, fb := some frameB }

/-- The block after a fatal error of `CFG`. -/
def faulted : State := { State.reset with fault := 5#3 }

/-- The intensities of the vectors of 95_test_vectors.md. -/
def render : Config.Render := { vZero := 0, vOne := 255, vPad := 85 }

/-- The image of a string on `ready`'s grid, where cell `k` is pixel `k`: a list of its pixels, those of
intensity 0 left out. -/
def imageOf : Nat → List Cell → Memory
  | _, [] => []
  | k, .zero :: cells => imageOf (k + 1) cells
  | k, .one :: cells => (k, render.vOne) :: imageOf (k + 1) cells
  | k, .pad :: cells => (k, render.vPad) :: imageOf (k + 1) cells

/-- `ready` with the image of a string in the capture port. -/
def seeing (frame : List Cell) : State := { ready with img := imageOf 0 frame }

/-- The state after one step in which the host issues `i` with the image that `s` holds. -/
def after (s : State) (i : Instr) : State :=
  match step { s with port := [{ cmd := (encode i).1, operands := (encode i).2, img := s.img }] } with
  | .next t => t
  | .fault _ => { s with st := 15#4 }
  | .refused _ => { s with st := 15#4 }

/-- The outcome as the vectors write it: `ST`, `ERR`, `INFO`. -/
def outcome (s : State) : BitVec 4 × BitVec 3 × BitVec 8 := (s.st, s.err, s.info)

/-- A next state with a property. -/
def answers (o : Host.Outcome State Fault Refusal) (p : State → Bool) : Bool :=
  match o with
  | .next t => p t
  | .fault _ => false
  | .refused _ => false

theorem answers_elim {o : Host.Outcome State Fault Refusal} {p : State → Bool}
    (h : answers o p = true) : ∃ t, o = .next t ∧ p t = true := by
  cases o with
  | next t => exact ⟨t, rfl, h⟩
  | fault f => cases h
  | refused r => cases h

/-! ## Bits and the hash: 95_test_vectors.md sections 2.1 and 2.2 -/

theorem test_bits8 : bits8 0xA5 = [true, false, true, false, false, true, false, true] := by decide
theorem test_unpack : unpack [0x41, 0x42] =
    [false, true, false, false, false, false, false, true,
     false, true, false, false, false, false, true, false] := by decide
theorem test_pack : pack (unpack [0x41, 0x42]) = [0x41, 0x42] := by decide

/-- R168: the constants are the first 32 bits of the fractional parts of the cube roots of the first 64
primes, from 2 to 311 (a composite number below 18^2 has a factor from 2 to 17): with the integer part
`a` of the root, `a * 2^32 + K` is the integer cube root of `p * 2^96`. -/
theorem test_round_constants :
    let primes := (List.range 312).filter fun p =>
      2 ≤ p && (List.range 18).all fun m => m < 2 || p % m != 0 || p == m
    Sha.roundConstants.length = 64 ∧ primes.length = 64 ∧
    (primes.zip Sha.roundConstants).all (fun (p, k) => (List.range 7).any fun a =>
      (a * 2 ^ 32 + k.toNat) ^ 3 ≤ p * 2 ^ 96 && p * 2 ^ 96 < (a * 2 ^ 32 + k.toNat + 1) ^ 3) =
      true := by decide +kernel

theorem test_sha_abc : Sha.sha256 [0x61, 0x62, 0x63] = Sha.beBytes 32
    0xba7816bf8f01cfea414140de5dae2223b00361a396177a9cb410ff61f20015ad := by decide +kernel
theorem test_sha_two_blocks : Sha.sha256 (List.replicate 56 0x61) = Sha.beBytes 32
    0xb35439a4ac6f0948b6d6f9e3c6af0f5f590ce20f1bde7090ef7970686ec6738a := by decide +kernel

/-! ## The ops, one step each -/

/-- P1 and section 2.9: `RST` clears everything, also after a fatal error. -/
theorem test_rst_clears : after { loaded with fault := 1#3, st := 5#4 } .rst = State.reset := by
  decide

/-- Section 2.4: the configuration of section 3. -/
theorem test_cfg_latches :
    let t := after State.reset (.cfg 16 17 100 50 270 50 100 210)
    (t.c, t.d, t.w, t.h, t.cfgv, t.st) = (272, 16, 170, 160, true, 0#4) := by decide

/-- Section 2.4: checks 3 and 4 both fail; nothing is latched. -/
theorem test_cfg_first_failure :
    let t := after State.reset (.cfg 13 20 0 0 0 0 0 100)
    outcome t = (5#4, 5#3, 3#8) ∧ t.fault = 5#3 ∧ t.cfgv = false ∧ t.rows = 0 := by decide

/-- E1: the configuration of the source. -/
def sourceConfig : State := State.reset.latchConfig 49 160 320 154 1603 154 320 938

/-- Section 2.5: the first and the last cell of E1. -/
theorem test_geo_pt_first : (after sourceConfig (.geoPt 0 0)).result = .point 324 162 := by decide
theorem test_geo_pt_last : (after sourceConfig (.geoPt 48 159)).result = .point 1598 930 := by decide

theorem test_geo_rect : (after sourceConfig .geoRect).result = .rect 320 154 1283 784 := by decide

theorem test_geo_pitch : (after sourceConfig .geoPitch).result = .pitch 1283 160 784 49 := by decide

/-- Section 2.3: a 7-bit string. -/
theorem test_dig_seven_bits :
    outcome (after State.reset (.dig [true, false, true, false, true, false, true])) =
      (4#4, 1#3, 7#8) := by decide

/-- Section 2.3: the bytes `61 62 63`. -/
theorem test_dig_abc :
    (after State.reset (.dig (unpack [0x61, 0x62, 0x63]))).result = .digest (unpack (Sha.beBytes 32
      0xba7816bf8f01cfea414140de5dae2223b00361a396177a9cb410ff61f20015ad)) := by decide +kernel

/-- Section 2.6: the boundary values. -/
theorem test_cls_bounds : [0, 79, 80, 89, 90, 127, 128, 255].map
    (fun v => (after State.reset (.cls (BitVec.ofNat 8 v))).result) =
    [.cell .zero, .cell .zero, .cell .pad, .cell .pad, .cell .zero, .cell .zero, .cell .one,
     .cell .one] := by decide

/-- R191's example. -/
theorem test_enc_load :
    let t := after ready (.encLoad [0x41, 0x42, 0x43])
    t.plen = 3 ∧ t.encOff = 0 ∧ t.plv = true ∧ t.payload = [0x41, 0x42, 0x43] := by decide

/-- Section 2.9: a second load. -/
theorem test_enc_load_twice : outcome (after loaded (.encLoad [1])) = (6#4, 0#3, 6#8) := by decide

/-- Section 2.7: frame A. -/
theorem test_enc_next_full :
    let t := after loaded .encNext
    t.fb = some frameA ∧ t.encOff = 2 ∧ t.result = .emitted 2 false := by decide +kernel

/-- Section 2.7: frame B, the terminal one. -/
theorem test_enc_next_terminal :
    let t := after { loaded with encOff := 2, fb := some frameA } .encNext
    t.fb = some frameB ∧ t.encOff = 3 ∧ t.encLast = true ∧ t.result = .emitted 1 true := by
  decide +kernel

/-- What the image of a string holds below its first cell, and at each cell. -/
theorem imageOf_read (cells : List Cell) : ∀ k,
    (∀ a, a < k → (imageOf k cells).read a = 0) ∧
    ∀ j (h : j < cells.length), (imageOf k cells).read (k + j) = intensityOf render cells[j] := by
  induction cells with
  | nil => exact fun k => ⟨fun _ _ => rfl, fun j h => absurd h (Nat.not_lt_zero j)⟩
  | cons x xs ih =>
    intro k
    obtain ⟨hlow, hcell⟩ := ih (k + 1)
    refine ⟨fun a ha => ?_, fun j hj => ?_⟩
    · cases x <;> simp [imageOf, hlow a (by omega), Nat.ne_of_gt ha]
    · cases j with
      | zero =>
        have h0 := hlow k (by omega)
        cases x <;> simp [imageOf, intensityOf, render] at h0 ⊢
        exact h0
      | succ j =>
        have h1 := hcell j (by simpa using hj)
        rw [show k + 1 + j = k + (j + 1) by omega] at h1
        cases x <;> simp [imageOf, h1]

/-- The image of `seeing` shows the string, by the arithmetic of `ready`'s grid. -/
theorem seeing_shows {cells : List Cell} (h : cells.length = 272) :
    (seeing cells).shows cells := by
  refine ⟨h, fun k hk => ?_⟩
  have hk : k < 272 := hk
  have hx : (seeing cells).sampleOffset k = (k, 0) := by
    simp only [State.sampleOffset, State.gt, State.samplePt, State.gridPos, seeing, ready,
      State.latchConfig, State.reset]
    refine Prod.ext ?_ ?_ <;> simp only [] <;> omega
  have hread : (seeing cells).sampleCell k = some ((imageOf 0 cells).read k) := by
    rw [State.sampleCell, hx]
    have hw : k < (seeing cells).w ∧ 0 < (seeing cells).h := ⟨hk, Nat.one_pos⟩
    have ha : 0 * (seeing cells).w + k = k := by omega
    simp only [State.readImg, hw, and_self, if_true, ha]
    rfl
  have hcell := (imageOf_read cells 0).2 k (by omega)
  rw [Nat.zero_add] at hcell
  rw [hread, hcell, List.getElem?_eq_getElem (by omega), Option.map_some]
  cases cells[k] <;> rfl

theorem shows_A : (seeing frameA).shows frameA := seeing_shows (by decide +kernel)
theorem shows_B : (seeing frameB).shows frameB := seeing_shows (by decide +kernel)

/-- Section 2.8, V1: frame A is accepted. -/
theorem answer_A :
    answers (exec .decFrame (seeing frameA)) (fun t =>
      outcome t = (1#4, 0#3, 0#8) && t.output = [0x41, 0x42] && t.decDone = false) = true := by
  rw [exec_decFrame_of_shows (by decide) (by decide) (by decide) shows_A]
  decide +kernel

/-- Section 2.8, V4: frame B is accepted and ends the stream. -/
theorem answer_B :
    answers (exec .decFrame (seeing frameB)) (fun t =>
      outcome t = (2#4, 0#3, 0#8) && t.output = [0x43] && t.decDone = true) = true := by
  rw [exec_decFrame_of_shows (by decide) (by decide) (by decide) shows_B]
  decide +kernel

/-- Section 2.8, V1 and V4. -/
theorem test_dec_frame_accepts :
    (∃ t, exec .decFrame (seeing frameA) = .next t ∧ t.output = [0x41, 0x42]) ∧
    ∃ t, exec .decFrame (seeing frameB) = .next t ∧ t.output = [0x43] := by
  obtain ⟨t, h, ht⟩ := answers_elim answer_A
  obtain ⟨u, k, hu⟩ := answers_elim answer_B
  simp only [Bool.and_eq_true, decide_eq_true_eq] at ht hu
  exact ⟨⟨t, h, ht.1.2⟩, ⟨u, k, hu.1.2⟩⟩

/-- Section 2.8, V2, V6, V8 and V9: a flipped data bit; 15 valid bits; check A before check B. -/
theorem test_dec_frame_rejects :
    outcome (ready.decodeCells (frameA.set 3 .one)) = (3#4, 2#3, 0#8) ∧
    outcome (ready.decodeCells (frameA.set 5 .pad)) = (3#4, 3#3, 3#8) ∧
    outcome (ready.decodeCells (List.replicate 16 .pad ++ (frameA.drop 16).set 4 .pad)) =
      (3#4, 3#3, 1#8) ∧
    outcome (ready.decodeCells ((frameA.set 5 .pad).set 20 .pad)) = (3#4, 3#3, 1#8) := by
  decide +kernel

/-! ## Witnesses: states of the invariant -/

theorem ready_configInv : ready.ConfigInv := by unfold State.ConfigInv; decide
theorem sourceConfig_configInv : sourceConfig.ConfigInv := by unfold State.ConfigInv; decide

theorem ready_inv : ready.Inv where
  config := ready_configInv
  memory := by unfold State.MemoryInv; decide
  encoder := by unfold State.EncoderInv; decide
  frame := fun _ h => nomatch h
  decoder := by unfold State.DecoderInv; decide
  codes := by unfold State.CodesInv; decide

theorem loaded_inv : loaded.Inv where
  config := ready_configInv
  memory := by unfold State.MemoryInv; decide
  encoder := by unfold State.EncoderInv; decide
  frame := fun _ h => nomatch h
  decoder := by unfold State.DecoderInv; decide
  codes := by unfold State.CodesInv; decide

/-- `ready` with a payload of exactly two frames' bytes. -/
def loadedFull : State := ready.loadPayload [1, 2, 3, 4]

theorem loadedFull_inv : loadedFull.Inv where
  config := ready_configInv
  memory := by unfold State.MemoryInv; decide
  encoder := by unfold State.EncoderInv; decide
  frame := fun _ h => nomatch h
  decoder := by unfold State.DecoderInv; decide
  codes := by unfold State.CodesInv; decide

/-! ## Witnesses: encoding, the step, reset, configuration -/

theorem witness_DecodeEncodeAgree :
    decode 0x30 operands = .ok (.cls 11) := by decide

theorem witness_OpcodeMapIsTotal : ∀ cmd ∈ [0x00#8, 0x03#8, 0xFF#8],
    cmd ∉ [0x01#8, 0x02#8, 0x10#8, 0x11#8, 0x12#8, 0x20#8, 0x30#8, 0x40#8, 0x41#8, 0x50#8] := by
  decide

theorem witness_LegalLimitsAdmitTheSourceExample :
    narrow.legal ∧ (Instr.cfg 254 252 0 0 1 0 0 1).wf narrow = true ∧ 256 < 254 * 252 ∧
      (254 * 252 - 256) % 8 = 0 ∧ (List.replicate 63752 true).length ≤ 254 * 252 - 256 :=
  ⟨narrow_legal, by decide, by decide, by decide, List.length_replicate.le⟩

theorem witness_StepRunsTheDecodedOp :
    let r : Request := { cmd := 0x30, operands := operands }
    ({ State.reset with port := [r] } : State).port = r :: [] ∧
      decode r.cmd r.operands = .ok (.cls 11) := by decide

theorem witness_IdleBlockKeepsItsState : State.reset.port = [] := by decide

theorem witness_ReservedWordIsRefused : ∃ (s : State) (q : Request), s.port = q :: [] ∧
    q.cmd ∉ [0x01#8, 0x02#8, 0x10#8, 0x11#8, 0x12#8, 0x20#8, 0x30#8, 0x40#8, 0x41#8, 0x50#8] :=
  ⟨{ faulted with port := [{ cmd := 0xFF }] }, { cmd := 0xFF }, by decide, by decide⟩

theorem witness_CfgLatchesConfiguration :
    State.reset.fault = 0#3 ∧ State.reset.cfgv = false ∧ 1 ≤ 1 ∧ 1 ≤ 264 ∧ 256 < 1 * 264 ∧
      (1 * 264 - 256) % 8 = 0 ∧ 0 < 1 ∧ 0 < 1 := by decide

/-- One configuration for each check of R123, every check before it holding at its limit. -/
theorem witness_CfgFirstFailingCheckDecides :
    State.reset.fault = 0#3 ∧ State.reset.cfgv = false ∧
    ¬(1 ≤ 0 ∧ 1 ≤ 300) ∧
    ((1 ≤ 16 ∧ 1 ≤ 16) ∧ ¬256 < 16 * 16) ∧
    ((1 ≤ 1 ∧ 1 ≤ 257) ∧ 256 < 1 * 257 ∧ ¬(1 * 257 - 256) % 8 = 0) ∧
    ((1 ≤ 1 ∧ 1 ≤ 264) ∧ 256 < 1 * 264 ∧ (1 * 264 - 256) % 8 = 0 ∧ ¬0 < 0) ∧
    ((1 ≤ 1 ∧ 1 ≤ 264) ∧ 256 < 1 * 264 ∧ (1 * 264 - 256) % 8 = 0 ∧ 0 < 1 ∧ ¬0 < 0) := by decide

/-- A state for each test of R278 after the first two. -/
theorem witness_RefusalTestsInOrder :
    faulted.fault ≠ 0#3 ∧
    (State.reset.fault = 0#3 ∧ State.reset.cfgv = false) ∧
    (ready.fault = 0#3 ∧ ready.cfgv = true ∧ ready.plv = false ∧ ready.decDone = false) ∧
    (loaded.fault = 0#3 ∧ loaded.cfgv = true ∧ loaded.plv = true) ∧
    (let t : State := { ready with decDone := true, outLen := 1 }
     t.fault = 0#3 ∧ t.cfgv = true ∧ t.decDone = true) ∧
    (ready.rows ≤ 1 ∧ ready.cols ≤ 272) := by decide

/-! ## Witnesses: geometry -/

theorem witness_GeoPtReturnsSamplePoint :
    ready.fault = 0#3 ∧ ready.cfgv = true ∧ 0 < ready.rows ∧ 271 < ready.cols := by decide

theorem witness_GeoRectAndPitchReturn : ready.fault = 0#3 ∧ ready.cfgv = true := by decide

theorem witness_SamplePointIsTheTruncatedCentre :
    1 ≤ sourceConfig.rows ∧ 1 ≤ sourceConfig.cols ∧ 48 < sourceConfig.rows ∧
      159 < sourceConfig.cols ∧ 7839 < sourceConfig.rows * sourceConfig.cols := by decide

theorem witness_SamplePointsLieInTheRectangle :
    sourceConfig.ConfigInv ∧ sourceConfig.cfgv = true ∧ 48 < sourceConfig.rows ∧
      159 < sourceConfig.cols := ⟨sourceConfig_configInv, by decide⟩

theorem witness_SamplePointsAreOrdered :
    1 ≤ sourceConfig.rows ∧ 1 ≤ sourceConfig.cols ∧ sourceConfig.cols ≤ sourceConfig.w ∧
      sourceConfig.rows ≤ sourceConfig.h ∧ 0 < 159 ∧ 0 < 48 := by decide

/-! ## Witnesses: bits, bytes and the digest -/

theorem witness_UnpackIsMostSignificantFirst :
    0 < 8 ∧ 7 < 8 ∧ ([0x41, 0x42] : List Byte)[1]? = some 0x42 := by decide

theorem witness_PackAndUnpackAreInverse :
    ([] : List Bit).length % 8 = 0 ∧ (List.replicate 8 true).length % 8 = 0 ∧
      0 < (List.replicate 8 true).length / 8 := by decide

theorem witness_DigestIsTotalOnAlignedStrings :
    (0 < (List.replicate 8 true).length ∧ (List.replicate 8 true).length % 8 = 0) ∧
    ¬(0 < ([] : List Bit).length ∧ ([] : List Bit).length % 8 = 0) ∧
    ¬(0 < (List.replicate 7 true).length ∧ (List.replicate 7 true).length % 8 = 0) := by decide

theorem witness_DigestStringIsBigEndian : ∃ d, digest (List.replicate 8 false) = some d :=
  ⟨_, rfl⟩

theorem witness_ShaPaddingFillsWholeBlocks :
    8 * ([] : List Byte).length < 2 ^ 64 ∧ 8 * (List.replicate 56 (0x61 : Byte)).length < 2 ^ 64 := by
  decide

theorem witness_ShaRotationsAreArithmetic : (0 < 1 ∧ 1 < 32) ∧ 0 < 31 ∧ 31 < 32 := by decide

theorem witness_ShaScheduleRecurrence :
    (List.replicate 16 (1 : Word)).length = 16 ∧ 15 < 16 ∧ 16 ≤ 16 ∧ 63 < 64 := by decide

theorem witness_DigReturnsDigestOrReportsLength :
    faulted.fault ≠ 0#3 ∧ State.reset.fault = 0#3 ∧
    ¬(0 < ([] : List Bit).length ∧ ([] : List Bit).length % 8 = 0) ∧
    (0 < (List.replicate 8 true).length ∧ (List.replicate 8 true).length % 8 = 0) := by decide

theorem witness_ClsReturnsTheCell : faulted.fault ≠ 0#3 ∧ State.reset.fault = 0#3 := by decide

/-! ## Witnesses: the encoder -/

theorem witness_EncLoadStoresThePayload :
    ready.fault = 0#3 ∧ ready.cfgv = true ∧ ready.plv = false := by decide

theorem witness_MakeFrameLayout :
    1 ≤ ([0x43] : List Byte).length ∧ 8 * ([0x43] : List Byte).length ≤ 16 ∧ 7 < 8 ∧ 8 ≤ 15 := by
  decide

theorem witness_EncodedFrameFacts :
    16 % 8 = 0 ∧ 1 ≤ ([0x43] : List Byte).length ∧ 8 * ([0x43] : List Byte).length ≤ 16 ∧
      makeFrame 16 [0x43] = some frameB := by decide +kernel

theorem witness_EncNextEmitsTheNextSlice :
    loaded.fault = 0#3 ∧ loaded.cfgv = true ∧ loaded.plv = true ∧ loaded.encOff < loaded.plen ∧
      8 ≤ loaded.d := by decide

theorem witness_EncNextWithNothingLeftIsFatal :
    drained.fault = 0#3 ∧ drained.cfgv = true ∧ drained.plv = true ∧
      drained.encOff = drained.plen := by decide +kernel

theorem witness_EncAllFrameCount :
    loaded.Inv ∧ loaded.fault = 0#3 ∧ loaded.plv = true ∧ loaded.encOff = 0 ∧ 0 < loaded.plen :=
  ⟨loaded_inv, by decide⟩

/-! ## Witnesses: the decoder -/

theorem witness_EveryCellReadsOnePixelInsideTheImage :
    ready.ConfigInv ∧ ready.cfgv = true ∧ 271 < ready.c := ⟨ready_configInv, by decide⟩

theorem witness_DecFrameAcceptsAValidFrame :
    ((seeing frameA).fault = 0#3 ∧ (seeing frameA).cfgv = true ∧ (seeing frameA).decDone = false ∧
      (seeing frameA).out.wf ∧ (seeing frameA).shows frameA) ∧
    Cell.pad ∉ frameA.drop 16 ∧ 0 < ((frameA.take 16).filterMap bitOfCell).length ∧
    ((frameA.take 16).filterMap bitOfCell).length % 8 = 0 ∧
    digest ((frameA.take 16).filterMap bitOfCell) = some ((frameA.drop 16).filterMap bitOfCell) :=
  ⟨⟨by decide, by decide, by decide, by decide, shows_A⟩, by decide +kernel⟩

/-- `b` cells `Pad` from cell `a` on, all others `Zero`. -/
def padsAt (a b : Nat) : List Cell :=
  List.replicate a .zero ++ List.replicate b .pad ++ List.replicate (272 - a - b) .zero

theorem shows_padsAt : ∀ ab ∈ [(16, 1), (0, 16), (15, 1), (0, 0)],
    (seeing (padsAt ab.1 ab.2)).shows (padsAt ab.1 ab.2) :=
  fun ab h => seeing_shows (by
    simp only [List.mem_cons, List.not_mem_nil, or_false] at h
    rcases h with rfl | rfl | rfl | rfl <;>
      simp only [padsAt, List.length_append, List.length_replicate])

/-- The block seeing an image all of whose pixels are 0. -/
def dark : State := ready

/-- A string for each check: `Pad` in the checksum region; no valid bit; 15 valid bits; two zero bytes
whose digest is not zero. -/
theorem witness_DecFrameRejectsInOrder :
    (∀ ab ∈ [(16, 1), (0, 16), (15, 1), (0, 0)],
      let s := seeing (padsAt ab.1 ab.2)
      s.fault = 0#3 ∧ s.cfgv = true ∧ s.decDone = false ∧ s.shows (padsAt ab.1 ab.2)) ∧
    Cell.pad ∈ (padsAt 16 1).drop 16 ∧
    (Cell.pad ∉ (padsAt 0 16).drop 16 ∧ (((padsAt 0 16).take 16).filterMap bitOfCell).length = 0) ∧
    (Cell.pad ∉ (padsAt 15 1).drop 16 ∧
      (((padsAt 15 1).take 16).filterMap bitOfCell).length % 8 ≠ 0) ∧
    Cell.pad ∉ (padsAt 0 0).drop 16 ∧ 0 < (((padsAt 0 0).take 16).filterMap bitOfCell).length ∧
    (((padsAt 0 0).take 16).filterMap bitOfCell).length % 8 = 0 ∧
    digest (((padsAt 0 0).take 16).filterMap bitOfCell) ≠
      some (((padsAt 0 0).drop 16).filterMap bitOfCell) :=
  ⟨fun ab h => ⟨rfl, rfl, rfl, shows_padsAt ab h⟩, by decide +kernel⟩

theorem witness_FrameRoundTrip :
    (seeing frameB).ConfigInv ∧ (seeing frameB).shows frameB ∧
    makeFrame (seeing frameB).d [0x43] = some frameB ∧
    ((seeing frameB).fault = 0#3 ∧ (seeing frameB).decDone = false ∧ (seeing frameB).cfgv = true ∧
      (seeing frameB).out.wf ∧ 1 ≤ ([0x43] : List Byte).length ∧
      ([0x43] : List Byte).length ≤ (seeing frameB).d / 8) :=
  ⟨ready_configInv, shows_B, by decide +kernel, by decide⟩

theorem witness_RepeatedCaptureAppendsTwice :
    ∃ t, (seeing frameA).out.wf ∧ exec .decFrame (seeing frameA) = .next t ∧ t.st = 1#4 := by
  obtain ⟨t, h, hp⟩ := answers_elim answer_A
  exact ⟨t, by decide, h, by simp [outcome] at hp; exact hp.1.1.1⟩

/-- A step that answers with the status asked for, on the image all of whose pixels are 0. -/
theorem dark_retry : answers (exec .decFrame dark) (fun t => t.st = 3#4) = true := by
  decide +kernel

theorem witness_RetryLeavesNoTrace : ∃ t, exec .decFrame dark = .next t ∧ t.st = 3#4 := by
  obtain ⟨t, h, hp⟩ := answers_elim dark_retry
  exact ⟨t, h, by simpa using hp⟩

theorem witness_FaithfulImageShowsTheFrame :
    ready.ConfigInv ∧ ready.cfgv = true ∧ renderOk render = true ∧ ready.cols ≤ ready.w ∧
      ready.rows ≤ ready.h ∧ Memory.wf [(7, 200)] ∧
      (List.replicate 272 Cell.zero).length = ready.c :=
  ⟨ready_configInv, by decide +kernel⟩

/-! ## Witnesses: errors, outcomes and what never changes -/

theorem witness_FatalErrorIsPrecise :
    (∃ t, exec (.cfg 0 300 0 0 1 0 0 1) State.reset = .next t ∧ t.fault ≠ State.reset.fault) ∧
    ∃ t, exec .encNext { loaded with encOff := 3 } = .next t ∧ t.fault ≠ loaded.fault :=
  ⟨⟨_, rfl, by decide⟩, ⟨_, rfl, by decide⟩⟩

theorem witness_FaultIsStickyUntilReset : faulted.fault ≠ 0#3 := by decide

theorem witness_OutcomeTable :
    (∃ t, exec .geoRect ready = .next t ∧ t.st = 0#4) ∧
    (∃ t, exec .decFrame (seeing frameA) = .next t ∧ t.st = 1#4) ∧
    (∃ t, exec .decFrame (seeing frameB) = .next t ∧ t.st = 2#4) ∧
    (∃ t, exec .decFrame dark = .next t ∧ t.st = 3#4) ∧
    (∃ t, exec (.dig []) State.reset = .next t ∧ t.st = 4#4) ∧
    (∃ t, exec (.cfg 0 0 0 0 0 0 0 0) State.reset = .next t ∧ t.st = 5#4) ∧
    ∃ t, exec .encNext State.reset = .next t ∧ t.st = 6#4 := by
  refine ⟨⟨_, rfl, by decide⟩, ?_, ?_, witness_RetryLeavesNoTrace, ⟨_, rfl, by decide⟩,
    ⟨_, rfl, by decide⟩, ⟨_, rfl, by decide⟩⟩
  · obtain ⟨t, -, h, hs⟩ := witness_RepeatedCaptureAppendsTwice
    exact ⟨t, h, hs⟩
  · obtain ⟨t, h, hp⟩ := answers_elim answer_B
    exact ⟨t, h, by simp [outcome] at hp; exact hp.1.1.1⟩

theorem witness_ReadingOpsWriteResultsOnly :
    (∃ t, exec (.geoPt 0 0) ready = .next t) ∧ (∃ t, exec .geoRect ready = .next t) ∧
    (∃ t, exec .geoPitch ready = .next t) ∧ (∃ t, exec (.dig []) ready = .next t) ∧
    ∃ t, exec (.cls 80) ready = .next t :=
  ⟨⟨_, rfl⟩, ⟨_, rfl⟩, ⟨_, rfl⟩, ⟨_, rfl⟩, ⟨_, rfl⟩⟩

theorem witness_ConfigurationIsStatic :
    (∃ t, exec (.encLoad [1]) ready = .next t) ∧ ready.cfgv = true := ⟨⟨_, rfl⟩, by decide⟩

theorem witness_PayloadIsImmutable :
    (∃ t, exec .geoRect loaded = .next t) ∧ loaded.plv = true := ⟨⟨_, rfl⟩, by decide⟩

theorem witness_OutputIsAppendOnly :
    (∃ t, Instr.decFrame ≠ .rst ∧ exec .decFrame (seeing frameA) = .next t) ∧
    let s : State := { ready with out := [(0, 7)], outLen := 1 }
    0 < s.outLen ∧ ∃ t, exec .geoRect s = .next t := by
  obtain ⟨t, -, h, -⟩ := witness_RepeatedCaptureAppendsTwice
  exact ⟨⟨t, by decide, h⟩, by decide, _, rfl⟩

theorem witness_NothingIsAppendedAfterTheTerminalFrame :
    ∃ t, exec .decFrame { ready with decDone := true } = .next t := ⟨_, rfl⟩

theorem witness_HalvesDoNotInteract :
    (∃ t, exec .decFrame (seeing frameA) = .next t) ∧ (∃ t, exec (.encLoad [1]) ready = .next t) ∧
    ∃ t, exec .encNext ready = .next t := by
  obtain ⟨t, -, h, -⟩ := witness_RepeatedCaptureAppendsTwice
  exact ⟨⟨t, h⟩, ⟨_, rfl⟩, ⟨_, rfl⟩⟩

theorem witness_NoRecordWithoutCompletion :
    ∃ t, exec (.dig []) State.reset = .next t ∧ 3 ≤ t.st.toNat := ⟨_, rfl, by decide⟩

/-! ## Witnesses: invariants and transfers -/

/-- `ready` with an `ENC.LOAD` issued. -/
def issuing : State :=
  { ready with port := [{ cmd := 0x40, operands := { s := [0x41] }, img := [(3, 85)] }] }

theorem issuing_inv : issuing.Inv where
  config := ready_configInv
  memory := by unfold State.MemoryInv; decide
  encoder := by unfold State.EncoderInv; decide
  frame := fun _ h => nomatch h
  decoder := by unfold State.DecoderInv; decide
  codes := by unfold State.CodesInv; decide

theorem witness_StepKeepsTheInvariant :
    issuing.Inv ∧ ∃ t, step issuing = .next t := ⟨issuing_inv, _, rfl⟩

theorem witness_StepKeepsMemoryCanonical :
    issuing.MemoryInv ∧ ∃ t, step issuing = .next t := ⟨issuing_inv.memory, _, rfl⟩

theorem witness_NoStepStops : issuing.Inv := issuing_inv

/-- What a transfer meets when every capture is `image`, with a limit and two stop signals. -/
def outside (image : Memory) (retryMax : Option Nat) (beforeCapture beforeAdvance : Bool) : Outside :=
  { channel := fun _ _ => image, retryMax := retryMax,
    stopsBeforeCapture := fun _ => beforeCapture, stopsBeforeAdvance := fun _ => beforeAdvance }

/-- A transfer about to make its first capture. -/
def started : Transfer := { enc := loaded, dec := ready, iter := 1, retries := 0, phase := .running }

/-- A capture of frame A advances the encoder. -/
theorem witness_AdvanceOnlyAfterValidation :
    ∃ u, started.step (outside (imageOf 0 frameA) none false false) = .next u ∧
      u.enc ≠ started.enc := by
  obtain ⟨d, -, h, hs⟩ := witness_RepeatedCaptureAppendsTwice
  have he : answers (exec .encNext loaded) (fun e => e.encOff = 2) = true := by decide +kernel
  obtain ⟨e, he, ho⟩ := answers_elim he
  refine ⟨_, (Transfer.step_acts (t := started) (o := outside (imageOf 0 frameA) none false false) rfl rfl h).trans (Transfer.act_advance hs rfl he), fun h' => ?_⟩
  have h0 : e.encOff = loaded.encOff := congrArg State.encOff h'
  have h2 : e.encOff = 2 := by simpa using ho
  rw [h2] at h0
  exact absurd h0 (by decide)

/-- An iteration for each end: not running, stopped before the capture, and a decoder with a fault. -/
theorem witness_TransferEndsAsTheHostDecides :
    ({ started with phase := .stopped } : Transfer).phase ≠ .running ∧
    (started.phase = .running ∧ (outside [] none true false).stopsBeforeCapture started.iter = true) ∧
    (let t : Transfer := { started with dec := faulted }
     t.phase = .running ∧ (outside [] none false false).stopsBeforeCapture t.iter = false ∧
       t.dec.fault ≠ 0#3) := by decide

/-- The terminal frame finishes the transfer. -/
theorem witness_TransferEndsAsTheHostDecides_finished :
    ∃ u, started.step (outside (imageOf 0 frameB) none false false) = .next u ∧
      u.phase = .finished := by
  obtain ⟨d, h, hp⟩ := answers_elim answer_B
  simp only [outcome, Bool.and_eq_true, decide_eq_true_eq, Prod.mk.injEq] at hp
  exact ⟨_, (Transfer.step_acts (t := started) (o := outside (imageOf 0 frameB) none false false) rfl rfl h).trans (Transfer.act_terminal hp.1.1.1), rfl⟩

/-- An accepted frame with the stop signal before the advance signal. -/
theorem witness_TransferEndsAsTheHostDecides_stopped :
    ∃ u, started.step (outside (imageOf 0 frameA) none false true) = .next u ∧
      u.phase = .stopped := by
  obtain ⟨d, -, h, hs⟩ := witness_RepeatedCaptureAppendsTwice
  exact ⟨_, (Transfer.step_acts (t := started) (o := outside (imageOf 0 frameA) none false true) rfl rfl h).trans (Transfer.act_stopped hs rfl), rfl⟩

/-- A dark capture is retried, and with `RETRY_MAX = 1` it stalls; one to a block right after reset is
refused, and the host gives up. -/
theorem witness_TransferEndsAsTheHostDecides_others :
    (∃ u, started.step (outside [] none false false) = .next u ∧ u.phase = .running ∧
      u.dec.st = 3#4) ∧
    (∃ u, started.step (outside [] (some 1) false false) = .next u ∧ u.phase = .stalled) ∧
    ∃ u, ({ started with dec := State.reset } : Transfer).step (outside [] none false false) =
      .next u ∧ u.phase = .failed := by
  obtain ⟨d, h, hs⟩ := witness_RetryLeavesNoTrace
  exact ⟨⟨_, (Transfer.step_acts (t := started) (o := outside [] none false false) rfl rfl h).trans (Transfer.act_retry hs), rfl, hs⟩,
    ⟨_, (Transfer.step_acts (t := started) (o := outside [] (some 1) false false) rfl rfl h).trans (Transfer.act_retry hs), rfl⟩, _, rfl, rfl⟩

/-- A background that is not all dark. -/
def backdrop : Memory := [(7, 200)]

theorem witness_TransferDeliversThePayload :
    loaded.Inv ∧ ready.Inv ∧ loaded.fault = 0#3 ∧ ready.fault = 0#3 ∧ loaded.plv = true ∧
      loaded.encOff = 0 ∧ ready.cfgv = true ∧ ready.outLen = 0 ∧ ready.decDone = false ∧
      ready.rows = loaded.rows ∧ ready.cols = loaded.cols ∧ ready.cols ≤ ready.w ∧
      ready.rows ≤ ready.h ∧ renderOk render = true ∧ backdrop.wf ∧
      loaded.plen % loaded.db ≠ 0 :=
  ⟨loaded_inv, ready_inv, by decide⟩

theorem witness_FullFramesNeverEndTheStream :
    loadedFull.Inv ∧ ready.Inv ∧ loadedFull.fault = 0#3 ∧ ready.fault = 0#3 ∧
      loadedFull.plv = true ∧ loadedFull.encOff = 0 ∧ ready.cfgv = true ∧ ready.outLen = 0 ∧
      ready.decDone = false ∧ ready.rows = loadedFull.rows ∧ ready.cols = loadedFull.cols ∧
      ready.cols ≤ ready.w ∧ ready.rows ≤ ready.h ∧ renderOk render = true ∧ backdrop.wf ∧
      0 < loadedFull.plen ∧ loadedFull.plen % loadedFull.db = 0 :=
  ⟨loadedFull_inv, ready_inv, by decide⟩

end Sys2Proof.Tests
end

section
/-! The step on a request that decodes (spec/00_scope.md R13, spec/30_encoding.md R90). -/

namespace Sys2Proof.Machine

/-- The step's equation for a presented request that decodes: the decoded op runs in the state that
has taken the request. -/
theorem step_of_decode_ok {s : State} {r : Request} {rest : List Request} {i : Instr}
    (hport : s.port = r :: rest) (hdecode : decode r.cmd r.operands = .ok i) :
    step s = exec i (s.take r rest) := by
  simp only [step, hport, hdecode]

/-- Settles O6: the step's equation, `State.take` being the capture port latched and the request
taken off the port. -/
theorem stepRunsTheDecodedOp : Obligations.StepRunsTheDecodedOp := by
  intro s r rest i hport hdecode
  calc step s
    _ = exec i (s.take r rest) := step_of_decode_ok hport hdecode
    _ = exec i { s with img := r.img, port := rest } := by rw [State.take]

end Sys2Proof.Machine
end

section
/-! What each op writes, said once over the ten ops, and the lengths of packed and unpacked strings
(spec/20_memory.md R61, R62; spec/60_exceptions.md R276 to R279). -/

namespace Sys2Proof.Machine

/-! ## Lengths -/

/-- A byte string of `L` bytes unpacks to `8 L` bits (R61). -/
theorem length_unpack (bytes : List Byte) : (unpack bytes).length = 8 * bytes.length := by
  induction bytes with
  | nil => rfl
  | cons x xs ih =>
    have hx : (bits8 x).length = 8 := rfl
    rw [unpack, List.length_append, hx, ih, List.length_cons]
    omega

/-- A string of 8 bits or more packs to a byte at least (R62). -/
theorem length_pack_pos {b : List Bit} (h : 8 ≤ b.length) : 1 ≤ (pack b).length := by
  match b, h with
  | _ :: _ :: _ :: _ :: _ :: _ :: _ :: _ :: _, _ => simp [pack]

/-- `MakeFrame` has a value for every payload slice but the empty one (R192). -/
theorem makeFrame_eq_none {d : Nat} {p : List Byte} (h : makeFrame d p = none) : p.length = 0 := by
  have hd : digest (unpack p) = none := by
    cases hc : digest (unpack p) with
    | none => rfl
    | some chk => simp [makeFrame, hc] at h
  simp only [digest, length_unpack] at hd
  split_ifs at hd with hlength
  have haligned : 8 * p.length % Config.byteBits = 0 := Nat.mul_mod_right 8 p.length
  omega

/-! ## What an op writes before its result registers -/

/-- `Writes i s u`: an op `i` other than `RST`, from `s`, can leave the state `u` when it comes to
its result registers (`State.finish`). The premises are what its admission and its checks found. -/
inductive Writes : Instr → State → State → Prop
  /-- R278, R277, R271, and every op that only returns a record. -/
  | nothing (i : Instr) (s : State) : Writes i s s
  /-- R123: a failed check of `CFG`. -/
  | configFault {s : State} (rows cols tlx tly trx try_ blx bly : Nat)
      (fault : s.fault = 0#3) (cfgv : s.cfgv = false) :
      Writes (.cfg rows cols tlx tly trx try_ blx bly) s { s with fault := 5#3 }
  /-- R122: a successful `CFG`. -/
  | config {s : State} {rows cols tlx tly trx try_ blx bly : Nat}
      (fault : s.fault = 0#3) (cfgv : s.cfgv = false)
      (checks : cfgCheck rows cols tlx tly trx bly = none) :
      Writes (.cfg rows cols tlx tly trx try_ blx bly) s
        (s.latchConfig rows cols tlx tly trx try_ blx bly)
  /-- R191. -/
  | payload {s : State} (bytes : List Byte)
      (fault : s.fault = 0#3) (cfgv : s.cfgv = true) (plv : s.plv = false) :
      Writes (.encLoad bytes) s (s.loadPayload bytes)
  /-- R195: no payload byte is left. -/
  | drainedFault {s : State} (fault : s.fault = 0#3) (cfgv : s.cfgv = true) (plv : s.plv = true)
      (drained : s.nextCount = 0 ∨ ∃ p, s.nextBytes = some p ∧ makeFrame s.d p = none) :
      Writes .encNext s { s with fault := 1#3 }
  /-- R193. -/
  | frame {s : State} {p : List Byte} {cells : List Cell}
      (fault : s.fault = 0#3) (cfgv : s.cfgv = true) (plv : s.plv = true)
      (count : s.nextCount ≠ 0) (bytes : s.nextBytes = some p)
      (made : makeFrame s.d p = some cells) :
      Writes .encNext s (s.emitFrame cells s.nextCount)
  /-- R229. -/
  | output {s : State} {valid : List Bit} (npad : Nat)
      (fault : s.fault = 0#3) (cfgv : s.cfgv = true) (decDone : s.decDone = false)
      (nonempty : valid.length ≠ 0) (aligned : valid.length % 8 = 0) :
      Writes .decFrame s
        { s.outAppend (pack valid) with decDone := decDoneFlag npad s.decDone }


/-- A fatal error where `FAULT` is 0 writes its code there, and then the result registers (R276). -/
theorem raiseError_fatal {s : State} (hf : s.fault = 0#3) (e : ErrorKind) (info : BitVec 8) :
    s.raiseError .fatal e info = { s with fault := e.code }.finish .fatal e info .none := by
  simp [State.raiseError, faultAfter, hf, Severity.status]

/-- Everything `exec` can do, as what it writes: `RST` restarts, and any other op makes the writes
of one row of `Writes` and then writes its result registers. -/
theorem exec_writes {i : Instr} {s t : State} (h : exec i s = .next t) :
    (i = .rst ∧ t = s.restart) ∨
    ∃ u st e info r, Writes i s u ∧ e ≠ ErrorKind.captureFailure ∧ t = u.finish st e info r := by
  rcases exec_cases h with hrst | ⟨-, why, rfl⟩ |
    ⟨_, _, _, _, _, _, _, _, rfl, hf, hc, ⟨info, rfl⟩ | ⟨hchk, rfl⟩⟩ |
    ⟨-, ⟨r, rfl⟩ | ⟨-, info, rfl⟩⟩ | ⟨bytes, rfl, hf, hc, hp, rfl⟩ |
    ⟨rfl, hf, hc, hp, ⟨hd, rfl⟩ | ⟨hn, p, cells, hb, hm, rfl⟩⟩ |
    ⟨rfl, hf, hc, hd, cells, -, ⟨e, info, he, rfl⟩ | ⟨hne, hal, rfl⟩⟩
  · exact .inl hrst
  · exact .inr ⟨s, _, _, _, _, .nothing i s, by simp, rfl⟩
  · exact .inr ⟨_, _, _, _, _, .configFault _ _ _ _ _ _ _ _ hf hc, by simp, raiseError_fatal hf _ _⟩
  · exact .inr ⟨_, _, _, _, _, .config hf hc hchk, by simp, rfl⟩
  · exact .inr ⟨s, _, _, _, _, .nothing i s, by simp, rfl⟩
  · exact .inr ⟨s, _, _, _, _, .nothing i s, by simp, rfl⟩
  · exact .inr ⟨_, _, _, _, _, .payload bytes hf hc hp, by simp, rfl⟩
  · exact .inr ⟨_, _, _, _, _, .drainedFault hf hc hp hd, by simp, raiseError_fatal hf _ _⟩
  · exact .inr ⟨_, _, _, _, _, .frame hf hc hp hn hb hm, by simp, rfl⟩
  · exact .inr ⟨s, _, _, _, _, .nothing _ s, by rcases he with rfl | rfl <;> simp, rfl⟩
  · exact .inr ⟨_, _, _, _, _, .output _ hf hc hd hne hal, by simp, rfl⟩

/-- `exec_writes` for an op other than `RST`. -/
theorem exec_writes_of_ne_rst {i : Instr} {s t : State} (hi : i ≠ .rst) (h : exec i s = .next t) :
    ∃ u st e info r, Writes i s u ∧ t = u.finish st e info r := by
  rcases exec_writes h with ⟨hrst, -⟩ | ⟨u, st, e, info, r, hw, -, ht⟩
  · exact absurd hrst hi
  · exact ⟨u, st, e, info, r, hw, ht⟩

end Sys2Proof.Machine
end

section
/-! Every step keeps the invariant (spec/10_state.md R22 to R46). Each part of `State.Inv` is
carried over the rows of `Writes`; the result registers, the request taken and reset are treated
once. -/

namespace Sys2Proof.Machine

/-! ## A property every step keeps -/

/-- What a step keeps follows from three facts: taking a request keeps it, refusing a reserved word
keeps it, and every op keeps it. -/
theorem step_keeps {P : State → Prop}
    (htake : ∀ {s r rest}, s.port = r :: rest → P s → P (s.take r rest))
    (hrefuse : ∀ {s}, P s → P (s.refuse .illegalCommand))
    (hexec : ∀ {i s t}, P s → exec i s = .next t → P t)
    {s t : State} (hs : P s) (h : step s = .next t) : P t := by
  rcases step_cases s with
    ⟨-, hstep⟩ | ⟨r, rest, w, hport, -, hstep⟩ | ⟨r, rest, i, hport, -, hstep⟩
  · rw [hstep] at h; cases h; exact hs
  · rw [hstep] at h; cases h; exact hrefuse (htake hport hs)
  · rw [hstep] at h; exact hexec (htake hport hs) h

/-! ## Memories -/

/-- Where nothing is listed at or above `n`, a store from `n` on lists nothing at or above its end. -/
theorem Memory.store_bounded {m : Memory} {n : Nat} (h : ∀ x ∈ m, x.1 < n) (bytes : List Byte) :
    ∀ x ∈ m.store n bytes, x.1 < n + bytes.length := by
  intro x hx
  rcases Memory.mem_store hx with hx | ⟨-, hx⟩
  · exact Nat.lt_add_right _ (h x hx)
  · exact hx

theorem take_memoryInv {s : State} {r : Request} {rest : List Request} (hport : s.port = r :: rest)
    (h : s.MemoryInv) : (s.take r rest).MemoryInv := by
  obtain ⟨hpay, hout, -, hports, hplen, houtLen⟩ := h
  rw [hport] at hports
  obtain ⟨himg, hrest⟩ := List.forall_mem_cons.1 hports
  exact ⟨hpay, hout, himg, hrest, hplen, houtLen⟩

theorem restart_memoryInv {s : State} (h : s.MemoryInv) : s.restart.MemoryInv := by
  obtain ⟨-, -, himg, hports, -, -⟩ := h
  exact ⟨Memory.wf_nil, Memory.wf_nil, himg, hports, by simp, by simp⟩

theorem Writes.memoryInv {i : Instr} {s u : State} (hw : Writes i s u) (h : s.MemoryInv) :
    u.MemoryInv := by
  obtain ⟨hpay, hout, himg, hports, hplen, houtLen⟩ := h
  cases hw with
  | nothing | configFault | config | drainedFault | frame =>
    exact ⟨hpay, hout, himg, hports, hplen, houtLen⟩
  | payload bytes =>
    have hbounded := Memory.store_bounded (m := []) (n := 0) (by simp) bytes
    rw [Nat.zero_add] at hbounded
    exact ⟨Memory.wf_store Memory.wf_nil 0 bytes, hout, himg, hports, hbounded, houtLen⟩
  | output =>
    exact ⟨hpay, Memory.wf_store hout _ _, himg, hports, hplen, Memory.store_bounded houtLen _⟩

theorem exec_keeps_memoryInv {i : Instr} {s t : State} (h : s.MemoryInv) (he : exec i s = .next t) :
    t.MemoryInv := by
  rcases exec_writes he with ⟨-, rfl⟩ | ⟨u, st, e, info, r, hw, -, rfl⟩
  · exact restart_memoryInv h
  · exact hw.memoryInv h

/-- Settles O54: only `ENC.LOAD` and an accepted `DEC.FRAME` store bytes, each up to the length it
writes, and a request brings its own image. -/
theorem stepKeepsMemoryCanonical : Obligations.StepKeepsMemoryCanonical := fun _ _ =>
  step_keeps take_memoryInv id exec_keeps_memoryInv

/-! ## Configuration -/

theorem Writes.configInv {i : Instr} {s u : State} (hw : Writes i s u) (h : s.ConfigInv) :
    u.ConfigInv := by
  cases hw with
  | nothing | configFault | payload | drainedFault | frame | output => exact h
  | config _ _ checks =>
    obtain ⟨hrows, hcols, hcells, haligned, hx, hy⟩ := cfgCheck_eq_none_iff.1 checks
    exact ⟨fun _ => ⟨hrows, hcols, rfl, hcells, rfl, haligned, hx, hy, rfl, rfl⟩, nofun⟩

/-- A configured block has room for a payload byte in every frame (R28, R123). -/
theorem db_pos {s : State} (h : s.ConfigInv) (hc : s.cfgv = true) : 1 ≤ s.db := by
  obtain ⟨-, -, -, hcells, hd, haligned, -⟩ := h.1 hc
  show 1 ≤ s.d / 8
  omega

/-! ## The encoder half -/

/-- `ENC.NEXT` finds nothing to emit only at the end of the payload (R195). -/
theorem encOff_eq_plen_of_drained {s : State} (hconfig : s.ConfigInv) (hc : s.cfgv = true)
    (hoff : s.encOff ≤ s.plen)
    (h : s.nextCount = 0 ∨ ∃ p, s.nextBytes = some p ∧ makeFrame s.d p = none) :
    s.encOff = s.plen := by
  have hcount : s.nextCount = 0 := by
    rcases h with h | ⟨p, hp, hm⟩
    · exact h
    · obtain rfl : s.pay.slice s.encOff s.nextCount = p := by simpa [nextBytes_eq hoff] using hp
      simpa using makeFrame_eq_none hm
  have hdb := db_pos hconfig hc
  unfold State.nextCount at hcount
  omega

theorem Writes.encoderInv {i : Instr} {s u : State} (hw : Writes i s u) (h : s.EncoderInv) :
    u.EncoderInv := by
  obtain ⟨hoff, hplv, hempty, hlast, hfb⟩ := h
  cases hw with
  | nothing | configFault | drainedFault | output => exact ⟨hoff, hplv, hempty, hlast, hfb⟩
  | config => exact ⟨hoff, fun _ => rfl, hempty, hlast, hfb⟩
  | payload bytes _ cfgv => exact ⟨Nat.zero_le _, fun _ => cfgv, nofun, nofun, fun _ => ⟨rfl, rfl⟩⟩
  | frame _ _ plv =>
    have hcount : s.nextCount = min (s.plen - s.encOff) s.db := rfl
    refine ⟨?_, hplv, fun hno => ?_, fun hterminal => ?_, nofun⟩
    · show s.encOff + s.nextCount ≤ s.plen
      omega
    · exact absurd (hno.symm.trans plv) (by simp)
    · have hshort : s.nextCount < s.db := by simpa [encLastFlag] using hterminal
      show s.encOff + s.nextCount = s.plen
      omega

/-- Before a payload is loaded no frame was emitted (R40). -/
theorem fb_eq_none_of_not_plv {s : State} (h : s.EncoderInv) (hp : s.plv = false) :
    s.fb = none := by
  obtain ⟨-, -, hempty, -, -⟩ := h
  obtain ⟨-, -, -, hfb⟩ := hempty hp
  exact hfb

/-- Before a configuration there is no payload (R34). -/
theorem plv_eq_false_of_not_cfgv {s : State} (h : s.EncoderInv) (hc : s.cfgv = false) :
    s.plv = false := by
  obtain ⟨-, hplv, -⟩ := h
  cases hp : s.plv with
  | false => rfl
  | true => simp [hplv hp] at hc

theorem frameInv_of_fb_eq_none {s : State} (h : s.fb = none) : s.FrameInv := by
  intro frame hframe
  simp [h] at hframe

theorem Writes.frameInv {i : Instr} {s u : State} (hw : Writes i s u) (hencoder : s.EncoderInv)
    (h : s.FrameInv) : u.FrameInv := by
  cases hw with
  | nothing | configFault | drainedFault | output => exact h
  | config _ cfgv =>
    have hplv : s.plv = false := plv_eq_false_of_not_cfgv hencoder cfgv
    have hfb : s.fb = none := fb_eq_none_of_not_plv hencoder hplv
    exact frameInv_of_fb_eq_none hfb
  | payload _ _ _ plv =>
    have hfb : s.fb = none := fb_eq_none_of_not_plv hencoder plv
    exact frameInv_of_fb_eq_none hfb
  | @frame _ p cells _ _ _ count bytes made =>
    intro frame hframe
    obtain rfl : cells = frame := by simpa using hframe
    obtain ⟨hoff, -⟩ := hencoder
    have hslice : s.pay.slice s.encOff s.nextCount = p := by simpa [nextBytes_eq hoff] using bytes
    refine ⟨s.nextCount, Nat.one_le_iff_ne_zero.2 count, Nat.min_le_right _ _, Nat.le_add_left _ _,
      ?_, rfl⟩
    simpa [hslice] using made

/-! ## The decoder half and the codes -/

theorem Writes.decoderInv {i : Instr} {s u : State} (hw : Writes i s u) (h : s.DecoderInv) :
    u.DecoderInv := by
  cases hw with
  | nothing | configFault | payload | drainedFault | frame => exact h
  | config => exact ⟨nofun, h.2⟩
  | @output _ valid npad _ cfgv _ nonempty aligned =>
    have hbytes : 1 ≤ (pack valid).length := length_pack_pos (by omega)
    refine ⟨fun hno => absurd (hno.symm.trans cfgv) (by simp), fun _ => ?_⟩
    show 1 ≤ s.outLen + (pack valid).length
    omega

theorem Writes.codesInv {i : Instr} {s u : State} (hw : Writes i s u) (hconfig : s.ConfigInv)
    (hencoder : s.EncoderInv) (h : s.CodesInv) : u.CodesInv := by
  obtain ⟨hst, herr, hfault, hfive, hone⟩ := h
  cases hw with
  | nothing | output => exact ⟨hst, herr, hfault, hfive, hone⟩
  | configFault _ _ _ _ _ _ _ _ _ cfgv => exact ⟨hst, herr, by simp, fun _ => cfgv, by simp⟩
  | drainedFault _ cfgv plv drained =>
    obtain ⟨hoff, -⟩ := hencoder
    have hend : s.encOff = s.plen := encOff_eq_plen_of_drained hconfig cfgv hoff drained
    exact ⟨hst, herr, by simp, by simp, fun _ => ⟨plv, hend⟩⟩
  | config fault | payload _ fault | frame fault =>
    exact ⟨hst, herr, hfault, by simp [fault], by simp [fault]⟩

/-! ## The whole invariant -/

theorem Writes.inv {i : Instr} {s u : State} (hw : Writes i s u) (h : s.Inv) : u.Inv where
  config := hw.configInv h.config
  memory := hw.memoryInv h.memory
  encoder := hw.encoderInv h.encoder
  frame := hw.frameInv h.encoder h.frame
  decoder := hw.decoderInv h.decoder
  codes := hw.codesInv h.config h.encoder h.codes

/-- The codes of R279 that are written are 0 to 6. -/
theorem Status.code_le (st : Status) : st.code.toNat ≤ 6 := by cases st <;> decide

/-- The codes of R270 that are written leave out that of `CaptureFailure` (R274). -/
theorem ErrorKind.code_mem {e : ErrorKind} (h : e ≠ .captureFailure) :
    e.code ∈ [0#3, 1#3, 2#3, 3#3, 5#3] := by
  cases e with
  | captureFailure => exact absurd rfl h
  | none | invalidBitLength | checksumMismatch | malformedFrame | geometryMisconfiguration =>
    simp [ErrorKind.code]

theorem finish_inv {s : State} (h : s.Inv) (st : Status) {e : ErrorKind} (he : e ≠ .captureFailure)
    (info : BitVec 8) (r : Result) : (s.finish st e info r).Inv := by
  obtain ⟨hconfig, hmemory, hencoder, hframe, hdecoder, -, -, hfault⟩ := h
  exact ⟨hconfig, hmemory, hencoder, hframe, hdecoder, st.code_le, ErrorKind.code_mem he, hfault⟩

theorem take_inv {s : State} {r : Request} {rest : List Request} (hport : s.port = r :: rest)
    (h : s.Inv) : (s.take r rest).Inv :=
  ⟨h.config, take_memoryInv hport h.memory, h.encoder, h.frame, h.decoder, h.codes⟩

/-- Settles O52: with no flag set and nothing in `FB`, only the reset values themselves are asked. -/
theorem invariantHoldsAtReset : Obligations.InvariantHoldsAtReset where
  config := ⟨nofun, fun _ => by simp [State.reset]⟩
  memory := ⟨Memory.wf_nil, Memory.wf_nil, Memory.wf_nil, nofun, nofun, nofun⟩
  encoder := ⟨le_rfl, nofun, fun _ => ⟨rfl, rfl, rfl, rfl⟩, nofun, fun _ => ⟨rfl, rfl⟩⟩
  frame := frameInv_of_fb_eq_none rfl
  decoder := ⟨fun _ => ⟨rfl, rfl⟩, nofun⟩
  codes := by unfold State.CodesInv; decide

/-- `RST` leaves the reset state but for the ports (R120). -/
theorem restart_inv {s : State} (h : s.MemoryInv) : s.restart.Inv := by
  obtain ⟨hconfig, -, hencoder, hframe, hdecoder, hcodes⟩ := invariantHoldsAtReset
  exact ⟨hconfig, restart_memoryInv h, hencoder, hframe, hdecoder, hcodes⟩

theorem exec_keeps_inv {i : Instr} {s t : State} (h : s.Inv) (he : exec i s = .next t) : t.Inv := by
  rcases exec_writes he with ⟨-, rfl⟩ | ⟨u, st, e, info, r, hw, hraised, rfl⟩
  · exact restart_inv h.memory
  · exact finish_inv (hw.inv h) st hraised info r

/-- Settles O53: reset is one case of `exec_keeps_inv`, every other op makes the writes of one row
of `Writes`, and a reserved word writes the result registers only. -/
theorem stepKeepsTheInvariant : Obligations.StepKeepsTheInvariant := fun _ _ =>
  step_keeps take_inv (fun h => finish_inv h .refused (by simp) _ .none) exec_keeps_inv

end Sys2Proof.Machine
end

section
/-! What stays the same from op to op until `RST`, and between the halves (spec/10_state.md R33 to
R46, spec/20_memory.md R67, R68). -/

namespace Sys2Proof.Machine

/-! ## Until reset -/

/-- Settles O46: only `CFG` writes the configuration, and it is refused while `CFGV = 1`. -/
theorem configurationIsStatic : Obligations.ConfigurationIsStatic := by
  intro i s t hi he hc
  obtain ⟨u, st, e, info, r, hw, rfl⟩ := exec_writes_of_ne_rst hi he
  cases hw with
  | nothing | payload | drainedFault | frame | output =>
    exact ⟨hc, rfl, rfl, rfl, rfl, rfl, rfl, rfl, rfl, rfl, rfl, rfl, rfl, fun _ => rfl⟩
  | configFault _ _ _ _ _ _ _ _ _ cfgv | config _ cfgv => simp [cfgv] at hc

/-- Settles O47: only `ENC.LOAD` writes the payload, and it is refused while `PLV = 1`; `ENC.NEXT`
adds to the offset. -/
theorem payloadIsImmutable : Obligations.PayloadIsImmutable := by
  intro i s t hi he hp
  obtain ⟨u, st, e, info, r, hw, rfl⟩ := exec_writes_of_ne_rst hi he
  cases hw with
  | nothing | configFault | config | drainedFault | output =>
    exact ⟨hp, rfl, rfl, le_rfl, fun _ => ⟨rfl, rfl, rfl⟩⟩
  | payload _ _ _ plv => simp [plv] at hp
  | frame => exact ⟨hp, rfl, rfl, Nat.le_add_right _ _, fun hne => absurd rfl hne⟩

/-- Settles O48: an accepted `DEC.FRAME` stores from `OUT_LEN` on, and no other op writes OUT. -/
theorem outputIsAppendOnly : Obligations.OutputIsAppendOnly := by
  intro i s t hi he
  obtain ⟨u, st, e, info, r, hw, rfl⟩ := exec_writes_of_ne_rst hi he
  cases hw with
  | nothing | configFault | config | payload | drainedFault | frame =>
    exact ⟨le_rfl, fun _ _ => rfl, fun _ => ⟨rfl, rfl, rfl⟩⟩
  | output =>
    exact ⟨Nat.le_add_right _ _, fun a ha => Memory.read_store_of_outside _ _ (.inl ha),
      fun hne => absurd rfl hne⟩

/-! ## The fault and reset -/

/-- Every op is performed through the admission tests (R278). -/
theorem exec_eq_performed (i : Instr) (s : State) : ∃ body, exec i s = performed i s body := by
  cases i <;> exact ⟨_, rfl⟩

/-- Settles O43: the test of `FAULT` is the first of the admission tests, and `RST` has none. -/
theorem faultIsStickyUntilReset : Obligations.FaultIsStickyUntilReset := by
  refine fun s hf => ⟨fun i hi => ⟨.none, ?_⟩, s.restart, execRst_eq s, s.restart_fault⟩
  have hrefused : admission i s = some .faulted := by simp [admission_eq hi, hf]
  obtain ⟨body, hbody⟩ := exec_eq_performed i s
  rw [hbody, performed_refused hrefused]
  rfl

/-- Settles O9: one fixed state, evaluated. -/
theorem resetValues : Obligations.ResetValues := by
  unfold Obligations.ResetValues
  decide

/-! ## The two halves (R45) -/

/-- `s` with other contents in its encoder half. -/
def State.setEncoder (s : State) (plen encOff : Nat) (plv encLast : Bool) (pay : Memory)
    (fb : Option (List Cell)) : State :=
  { s with plen := plen, encOff := encOff, plv := plv, encLast := encLast, pay := pay, fb := fb }

/-- `s` with other contents in its decoder half and on the capture port. -/
def State.setDecoder (s : State) (outLen : Nat) (decDone : Bool) (out img : Memory) : State :=
  { s with outLen := outLen, decDone := decDone, out := out, img := img }

/-- An op commutes with a change `f` of the state that its admission and its refusal do not see, if
what it does once admitted commutes with `f`. -/
theorem performed_commutes {i : Instr} {s t : State} {f : State → State}
    {body body' : Host.Outcome State Fault Refusal}
    (hadmission : admission i (f s) = admission i s)
    (hrefuse : ∀ why, (f s).refuse why = f (s.refuse why))
    (hbody : body = .next t → body' = .next (f t)) (h : performed i s body = .next t) :
    performed i (f s) body' = .next (f t) := by
  rcases performed_cases h with ⟨why, hwhy, rfl⟩ | ⟨hadmitted, hnext⟩
  · rw [performed_refused (hadmission.trans hwhy), hrefuse]
  · rw [performed_admitted (hadmission.trans hadmitted), hbody hnext]

section
variable (plen encOff : Nat) (plv encLast : Bool) (pay : Memory) (fb : Option (List Cell))

/-- What the decoder does with a sampled string does not see the encoder half. -/
theorem decodeCells_setEncoder (s : State) (cells : List Cell) :
    (s.setEncoder plen encOff plv encLast pay fb).decodeCells cells =
      (s.decodeCells cells).setEncoder plen encOff plv encLast pay fb := by
  have hd : (s.setEncoder plen encOff plv encLast pay fb).d = s.d := rfl
  unfold State.decodeCells
  rw [hd]
  cases checkFrame (cells.take s.d) (cells.drop s.d) with
  | error => rfl
  | ok => rfl

theorem exec_decFrame_setEncoder {s t : State} (h : exec .decFrame s = .next t) :
    exec .decFrame (s.setEncoder plen encOff plv encLast pay fb) =
      .next (t.setEncoder plen encOff plv encLast pay fb) := by
  refine performed_commutes (f := fun s => s.setEncoder plen encOff plv encLast pay fb) rfl
    (fun _ => rfl) (fun hnext => ?_) h
  have hsampled : (s.setEncoder plen encOff plv encLast pay fb).sampled = s.sampled := rfl
  rw [hsampled]
  cases hs : s.sampled with
  | none => simp [hs] at hnext
  | some cells =>
    obtain rfl : s.decodeCells cells = t := by simpa [hs] using hnext
    simp only [decodeCells_setEncoder]

end

section
variable (outLen : Nat) (decDone : Bool) (out img : Memory)

theorem exec_encLoad_setDecoder {bytes : List Byte} {s t : State}
    (h : exec (.encLoad bytes) s = .next t) :
    exec (.encLoad bytes) (s.setDecoder outLen decDone out img) =
      .next (t.setDecoder outLen decDone out img) := by
  refine performed_commutes (f := fun s => s.setDecoder outLen decDone out img) rfl (fun _ => rfl)
    (fun hnext => ?_) h
  cases hnext
  rfl

theorem exec_encNext_setDecoder {s t : State} (h : exec .encNext s = .next t) :
    exec .encNext (s.setDecoder outLen decDone out img) =
      .next (t.setDecoder outLen decDone out img) := by
  refine performed_commutes (f := fun s => s.setDecoder outLen decDone out img) rfl (fun _ => rfl)
    (fun hnext => ?_) h
  have hcount : (s.setDecoder outLen decDone out img).nextCount = s.nextCount := rfl
  have hbytes : (s.setDecoder outLen decDone out img).nextBytes = s.nextBytes := rfl
  have hd : (s.setDecoder outLen decDone out img).d = s.d := rfl
  rw [hcount, hbytes, hd]
  split_ifs at hnext ⊢
  · cases hnext; rfl
  · cases hp : s.nextBytes with
    | none => simp [hp] at hnext
    | some p =>
      cases hm : makeFrame s.d p with
      | none | some => simp only [hp, hm] at hnext ⊢; cases hnext; rfl

end

/-- A `DEC.FRAME` writes the decoder half and the result registers (R45). -/
theorem exec_decFrame_frame {s t : State} (h : exec .decFrame s = .next t) :
    t = { s with out := t.out, outLen := t.outLen, decDone := t.decDone, st := t.st, err := t.err,
                 info := t.info, result := t.result } := by
  obtain ⟨u, st, e, info, r, hw, rfl⟩ := exec_writes_of_ne_rst (by simp) h
  cases hw with
  | nothing | output => rfl

/-- Settles O50: each half's ops commute with a change of the other half. -/
theorem halvesDoNotInteract : Obligations.HalvesDoNotInteract := by
  refine ⟨fun s t h => ⟨exec_decFrame_frame h, fun plen encOff plv encLast pay fb =>
    exec_decFrame_setEncoder plen encOff plv encLast pay fb h⟩, fun i s t hi h => ?_⟩
  obtain ⟨hrst, hdec⟩ : i ≠ .rst ∧ i ≠ .decFrame := by rcases hi with ⟨b, rfl⟩ | rfl <;> simp
  obtain ⟨-, -, hkept⟩ := outputIsAppendOnly i s t hrst h
  refine ⟨hkept hdec, fun outLen decDone out img => ?_⟩
  rcases hi with ⟨b, rfl⟩ | rfl
  · exact exec_encLoad_setDecoder outLen decDone out img h
  · exact exec_encNext_setDecoder outLen decDone out img h

end Sys2Proof.Machine
end

section
/-! Bytes and bits (spec/20_memory.md R60 to R63). Both directions, and the big-endian reading of a
hash, come from one fact: the binary digits of the number a bit string is read as are the bits of
the string. -/

namespace Sys2Proof.Machine

/-! ## The number a bit string is read as -/

theorem bitsToNat_append_singleton (b : List Bit) (x : Bit) :
    bitsToNat (b ++ [x]) = 2 * bitsToNat b + x.toNat := by
  simp [bitsToNat]

/-- Reading on shifts what was read before to the left. -/
theorem bitsToNat_append (a b : List Bit) :
    bitsToNat (a ++ b) = 2 ^ b.length * bitsToNat a + bitsToNat b := by
  induction b using List.reverseRecOn with
  | nil => simp [bitsToNat]
  | append_singleton b x ih =>
    rw [← List.append_assoc, bitsToNat_append_singleton, bitsToNat_append_singleton, ih,
      List.length_append, List.length_singleton, pow_succ]
    ring

theorem bitsToNat_lt (b : List Bit) : bitsToNat b < 2 ^ b.length := by
  induction b using List.reverseRecOn with
  | nil => simp [bitsToNat]
  | append_singleton b x ih =>
    have hx := x.toNat_lt
    rw [bitsToNat_append_singleton, List.length_append, List.length_singleton, pow_succ]
    omega

/-- The bits of a string are the binary digits of its number, the first the most significant. -/
theorem getElem?_eq_testBit_bitsToNat {b : List Bit} {i : Nat} (h : i < b.length) :
    b[i]? = some ((bitsToNat b).testBit (b.length - 1 - i)) := by
  induction b using List.reverseRecOn with
  | nil => simp at h
  | append_singleton b x ih =>
    rw [List.length_append, List.length_singleton] at h
    rw [bitsToNat_append_singleton, List.length_append, List.length_singleton, Nat.add_sub_cancel]
    rcases Nat.lt_succ_iff_lt_or_eq.1 h with hi | rfl
    · have hhalf : (2 * bitsToNat b + x.toNat) / 2 = bitsToNat b := by
        have hx := x.toNat_lt
        omega
      have hplace : b.length - i = b.length - 1 - i + 1 := by omega
      rw [List.getElem?_append_left hi, ih hi, hplace, Nat.testBit_succ, hhalf]
    · cases x <;> simp [Nat.testBit_zero, Nat.add_mod]

/-! ## One byte -/

theorem length_bits8 (x : Byte) : (bits8 x).length = 8 := rfl

/-- Place `i` of a byte's bits holds bit `7 − i` (R60). -/
theorem bits8_getElem? (x : Byte) {i : Nat} (h : i < 8) :
    (bits8 x)[i]? = some (x.getLsbD (7 - i)) := by
  interval_cases i <;> rfl

/-- Eight bits are the bits of the byte with their number (R60, R62). -/
theorem bits8_ofNat_bitsToNat {b : List Bit} (h : b.length = 8) :
    bits8 (BitVec.ofNat 8 (bitsToNat b)) = b := by
  apply List.ext_getElem?
  intro i
  by_cases hi : i < 8
  · rw [bits8_getElem? _ hi, getElem?_eq_testBit_bitsToNat (by omega), h, BitVec.getLsbD_ofNat]
    simp [show 7 - i < 8 by omega]
  · rw [List.getElem?_eq_none (by rw [length_bits8]; omega), List.getElem?_eq_none (by omega)]

/-- A byte is the number of its bits (R10, R60). -/
theorem bitsToNat_bits8 (x : Byte) : bitsToNat (bits8 x) = x.toNat := by
  have hbyte : BitVec.ofNat 8 (bitsToNat (bits8 x)) = x := by
    apply BitVec.eq_of_getLsbD_eq
    intro j hj
    have hbits := congrArg (·[7 - j]?) (bits8_ofNat_bitsToNat (length_bits8 x))
    simpa [bits8_getElem?, show 7 - j < 8 by omega, show 7 - (7 - j) = j by omega] using hbits
  have hlt : bitsToNat (bits8 x) < 2 ^ 8 := bitsToNat_lt (bits8 x)
  calc bitsToNat (bits8 x)
    _ = bitsToNat (bits8 x) % 2 ^ 8 := (Nat.mod_eq_of_lt hlt).symm
    _ = (BitVec.ofNat 8 (bitsToNat (bits8 x))).toNat := (BitVec.toNat_ofNat _ _).symm
    _ = x.toNat := by rw [hbyte]

/-- The sum of R62 over the bits of a byte. -/
theorem sum_bits8 (x : Byte) :
    ∑ i ∈ Finset.range 8, (x.getLsbD (7 - i)).toNat * 2 ^ (7 - i) = x.toNat := by
  rw [← bitsToNat_bits8]
  simp only [Finset.sum_range_succ, Finset.sum_range_zero, bitsToNat, bits8, List.foldl]
  ring

/-! ## Byte strings -/

theorem unpack_append (s t : List Byte) : unpack (s ++ t) = unpack s ++ unpack t := by
  induction s with
  | nil => rfl
  | cons x xs ih => rw [List.cons_append, unpack, unpack, ih, List.append_assoc]

/-- Place `8 j + i` of an unpacked string holds bit `7 − i` of byte `j` (R61). -/
theorem unpack_getElem? {s : List Byte} {j i : Nat} {x : Byte} (hi : i < 8) (hx : s[j]? = some x) :
    (unpack s)[8 * j + i]? = some (x.getLsbD (7 - i)) := by
  induction s generalizing j with
  | nil => simp at hx
  | cons y ys ih =>
    cases j with
    | zero =>
      obtain rfl : y = x := by simpa using hx
      rw [unpack, Nat.mul_zero, Nat.zero_add, List.getElem?_append_left (by simpa [bits8] using hi),
        bits8_getElem? y hi]
    | succ j =>
      have hplace : 8 * (j + 1) + i - 8 = 8 * j + i := by omega
      rw [unpack, List.getElem?_append_right (by rw [length_bits8]; omega), length_bits8, hplace,
        ih (by simpa using hx)]

/-- Settles O19: R60 read through the digits of a byte, R61 by going down the byte string. -/
theorem unpackIsMostSignificantFirst : Obligations.UnpackIsMostSignificantFirst := by
  refine ⟨fun x => ⟨length_bits8 x, fun i hi => ?_⟩, fun s => ⟨length_unpack s, ?_⟩⟩
  · rw [bits8_getElem? x hi, BitVec.getLsbD, Nat.testBit_eq_decide_div_mod_eq]
  · exact fun j i hi x hx => unpack_getElem? hi hx

/-! ## Packing -/

/-- `Pack` reads one byte from its eight bits and goes on (R62). -/
theorem pack_bits8_append (x : Byte) (rest : List Bit) : pack (bits8 x ++ rest) = x :: pack rest :=
  calc pack (bits8 x ++ rest)
    _ = BitVec.ofNat 8 (bitsToNat (bits8 x)) :: pack rest := rfl
    _ = x :: pack rest := by rw [bitsToNat_bits8, BitVec.ofNat_toNat, BitVec.setWidth_eq]

theorem pack_unpack (s : List Byte) : pack (unpack s) = s := by
  induction s with
  | nil => rfl
  | cons x xs ih => rw [unpack, pack_bits8_append, ih]

/-- Every bit string whose length is a multiple of 8 is an unpacked byte string. -/
theorem exists_unpack_eq {n : Nat} {b : List Bit} (h : b.length = 8 * n) : ∃ s, unpack s = b := by
  induction n generalizing b with
  | zero => exact ⟨[], (List.length_eq_zero_iff.1 (by omega)).symm⟩
  | succ n ih =>
    obtain ⟨s, hs⟩ := ih (b := b.drop 8) (by rw [List.length_drop]; omega)
    refine ⟨BitVec.ofNat 8 (bitsToNat (b.take 8)) :: s, ?_⟩
    rw [unpack, hs, bits8_ofNat_bitsToNat (by rw [List.length_take]; omega), List.take_append_drop]

/-- Settles O20: an aligned bit string is `Unpack` of some `s`, so `Pack` of it is `s`, and its bits
are those of the bytes of `s`. -/
theorem packAndUnpackAreInverse : Obligations.PackAndUnpackAreInverse := by
  refine ⟨fun b hb => ?_, pack_unpack⟩
  obtain ⟨s, rfl⟩ := exists_unpack_eq (n := b.length / 8) (b := b) (by omega)
  have hlength : (unpack s).length / 8 = s.length := by rw [length_unpack]; omega
  rw [pack_unpack, hlength]
  refine ⟨rfl, rfl, fun j hj => ?_⟩
  have hx : s[j]? = some s[j] := List.getElem?_eq_getElem hj
  rw [List.getElem?_map, hx, Option.map_some, ← sum_bits8]
  congr 1
  refine Finset.sum_congr rfl fun i hi => ?_
  rw [List.getD_eq_getElem?_getD, unpack_getElem? (Finset.mem_range.1 hi) hx, Option.getD_some]

/-! ## The digest string -/

/-- Reading an unpacked byte string bit by bit reads the bytes big-endian (R63, R64). -/
theorem bitsToNat_unpack (s : List Byte) :
    bitsToNat (unpack s) = s.foldl (fun (n : Nat) (x : Byte) => 256 * n + x.toNat) 0 := by
  induction s using List.reverseRecOn with
  | nil => rfl
  | append_singleton s x ih =>
    have hx : unpack [x] = bits8 x := rfl
    rw [unpack_append, hx, bitsToNat_append, bitsToNat_bits8, length_bits8, ih, List.foldl_append]
    rfl

theorem Sha.length_beBytes (n x : Nat) : (Sha.beBytes n x).length = n := by
  induction n generalizing x with
  | zero => rfl
  | succ n ih => rw [Sha.beBytes, List.length_append, ih, List.length_singleton]

/-- A hash has 32 bytes (R170), that of an oversized message too. -/
theorem Sha.length_sha256 (s : List Byte) : (Sha.sha256 s).length = 32 := by
  unfold Sha.sha256
  split_ifs
  · simp [Sha.hashBytes, Sha.Regs.bytes, Sha.length_beBytes]
  · exact Sha.length_beBytes 32 _

/-- A digest is the unpacked hash of the packed string (R161). -/
theorem digest_eq_some {b d : List Bit} (h : digest b = some d) :
    d = unpack (Sha.sha256 (pack b)) := by
  unfold digest at h
  split_ifs at h
  exact (Option.some.inj h).symm

/-- Settles O22: the digest string has 256 bits, which are the digits of its number, and its number
is the hash read big-endian. -/
theorem digestStringIsBigEndian : Obligations.DigestStringIsBigEndian := by
  intro b d hd i hi
  obtain rfl := digest_eq_some hd
  have hlength : (unpack (Sha.sha256 (pack b))).length = 256 := by
    rw [length_unpack, Sha.length_sha256]
  rw [← bitsToNat_unpack, getElem?_eq_testBit_bitsToNat (by omega), hlength]

end Sys2Proof.Machine
end

section
/-! No step stops (spec/20_memory.md R65, R66, R74): an admitted `ENC.NEXT` reads PAY below `PLEN`,
an admitted `DEC.FRAME` reads pixels of the capture rectangle, and no other op reads a memory. -/

namespace Sys2Proof.Machine

/-- A refused op answers a next state, so only what an admitted op does is in question (R278). -/
theorem performed_safe {i : Instr} {s : State} {body : Host.Outcome State Fault Refusal}
    (h : admission i s = none → Safe body) : Safe (performed i s body) := by
  cases ha : admission i s with
  | none => rw [performed_admitted ha]; exact h ha
  | some why => exact ⟨_, performed_refused ha body⟩

/-! ## The payload -/

theorem execEncNext_safe {s : State} (h : s.encOff ≤ s.plen) : Safe (execEncNext s) := by
  refine performed_safe fun _ => ?_
  split_ifs
  · exact ⟨_, rfl⟩
  · rw [nextBytes_eq h]
    cases hm : makeFrame s.d (s.pay.slice s.encOff s.nextCount) with
    | none | some => simp only [hm]; exact ⟨_, rfl⟩

/-! ## The image -/

/-- The truncated centre of division `i` of `n` equal parts of `size` pixels is one of the pixels
(R142, R144). -/
theorem centre_lt {i n size : Nat} (hi : i < n) (hsize : 0 < size) :
    (2 * i + 1) * size / (2 * n) < size := by
  have hcentre : (2 * i + 1) * size < 2 * n * size := Nat.mul_lt_mul_of_pos_right (by omega) hsize
  exact Nat.div_lt_of_lt_mul hcentre

/-- The sample point of every cell of a configured grid is a pixel of the image (R66, R144). -/
theorem sampleOffset_lt {s : State} {k : Nat} (h : s.ConfigInv) (hc : s.cfgv = true) (hk : k < s.c) :
    (s.sampleOffset k).1 < s.w ∧ (s.sampleOffset k).2 < s.h := by
  obtain ⟨-, hcols, hcells, -, -, -, hx, hy, hw, hh⟩ := h.1 hc
  have hcol : k % s.cols < s.cols := Nat.mod_lt k hcols
  have hrow : k / s.cols < s.rows := Nat.div_lt_of_lt_mul (by rwa [Nat.mul_comm, ← hcells])
  simp only [State.sampleOffset, State.gt, State.gridPos, State.samplePt, Nat.add_sub_cancel_left]
  exact ⟨centre_lt hcol (by omega), centre_lt hrow (by omega)⟩

/-- A configured block samples a whole string of any image. -/
theorem exists_sampled {s : State} (h : s.ConfigInv) (hc : s.cfgv = true) :
    ∃ cells, s.sampled = some cells := by
  have hcell : ∀ k < s.c, s.sampleCell (0 + k) =
      some (s.img.read ((s.sampleOffset k).2 * s.w + (s.sampleOffset k).1)) := by
    intro k hk
    rw [Nat.zero_add, State.sampleCell, State.readImg, if_pos (sampleOffset_lt h hc hk)]
  exact ⟨_, by rw [State.sampled, collect_of_forall hcell, Option.map_some]⟩

theorem execDecFrame_safe {s : State} (h : s.ConfigInv) : Safe (execDecFrame s) := by
  refine performed_safe fun ha => ?_
  obtain ⟨-, hconfigured, -⟩ := (admission_eq_none_iff (by simp)).1 ha
  have hc : s.cfgv = true := by simpa [needsConfig] using hconfigured
  obtain ⟨cells, hcells⟩ := exists_sampled h hc
  exact ⟨s.decodeCells cells, by rw [hcells]⟩

/-! ## Every op -/

/-- Only the two ops that read a memory need the invariant, and of it only what bounds their reads. -/
theorem exec_safe {i : Instr} {s : State} (hconfig : s.ConfigInv) (hoff : s.encOff ≤ s.plen) :
    Safe (exec i s) := by
  cases i with
  | rst => exact ⟨_, execRst_eq s⟩
  | cfg rows cols tlx tly trx try_ blx bly =>
    refine performed_safe fun _ => ?_
    cases cfgCheck rows cols tlx tly trx bly with
    | none | some => exact ⟨_, rfl⟩
  | dig b =>
    refine performed_safe fun _ => ?_
    cases digest b with
    | none | some => exact ⟨_, rfl⟩
  | geoPt | geoRect | geoPitch | cls | encLoad => exact performed_safe fun _ => ⟨_, rfl⟩
  | encNext => exact execEncNext_safe hoff
  | decFrame => exact execDecFrame_safe hconfig

/-- Settles O55: an idle step and a refused reserved word answer a next state, and a decoded op runs
in a state with the registers of `s`. -/
theorem noStepStops : Obligations.NoStepStops := by
  intro s hs
  obtain ⟨hoff, -⟩ := hs.encoder
  rcases step_cases s with ⟨-, hstep⟩ | ⟨_, _, _, -, -, hstep⟩ | ⟨r, rest, i, -, -, hstep⟩
  · exact ⟨_, hstep⟩
  · exact ⟨_, hstep⟩
  · rw [hstep]
    exact exec_safe hs.config hoff

end Sys2Proof.Machine
end

section
/-! The command word (spec/30_encoding.md R90 to R94). A word that decodes is determined by its two
fields, so it is the word of the op it decodes to; the reserved words are the ones that are no op's
word. -/

namespace Sys2Proof

/-- A command word is its `unit` field above its `fn` field (R90). -/
theorem unitField_append_fnField (cmd : Byte) : unitField cmd ++ fnField cmd = cmd :=
  (BitVec.extractLsb'_append_extractLsb'_eq_extractLsb' rfl).trans BitVec.extractLsb'_eq_self

/-- An op is read back from its own command word and operand record (R91, R94). -/
theorem decode_encode (i : Instr) : decode (encode i).1 (encode i).2 = .ok i := by
  -- The command word has to stand as a literal before the decoder's match on it evaluates.
  cases i <;> dsimp only [encode] <;> rfl

/-- A word that decodes is the one its op encodes to: each row of the opcode map fixes both fields
(R91). -/
theorem encode_word_of_decode_ok {cmd : Byte} {o : OperandRecord} {i : Instr}
    (h : decode cmd o = .ok i) : (encode i).1 = cmd := by
  have hfields := unitField_append_fnField cmd
  unfold decode at h
  split at h
  case h_11 => cases h
  all_goals
    rename_i hunit hfn
    rw [hunit, hfn] at hfields
    cases h
    exact hfields

/-- The only way a word fails to decode is as an illegal command of its own value (R93). -/
theorem decode_error {cmd : Byte} {o : OperandRecord} {e : DecodeError}
    (h : decode cmd o = .error e) : e = .illegalCommand cmd := by
  unfold decode at h
  split at h <;> cases h
  rfl

/-- The command word of every op is one of the ten of the opcode map (R91). -/
theorem encode_word_mem (i : Instr) : (encode i).1 ∈
    [0x01#8, 0x02#8, 0x10#8, 0x11#8, 0x12#8, 0x20#8, 0x30#8, 0x40#8, 0x41#8, 0x50#8] := by
  cases i <;> simp [encode]

/-- A word outside the opcode map is rejected, as no op has it for its command word (R92, R93). -/
theorem decode_reserved {cmd : Byte} (o : OperandRecord) (h : cmd ∉
    [0x01#8, 0x02#8, 0x10#8, 0x11#8, 0x12#8, 0x20#8, 0x30#8, 0x40#8, 0x41#8, 0x50#8]) :
    decode cmd o = .error (.illegalCommand cmd) := by
  cases hd : decode cmd o with
  | error e => rw [decode_error hd]
  | ok i => exact absurd (encode_word_of_decode_ok hd ▸ encode_word_mem i) h

/-- Settles O1: the second half is `encode_word_of_decode_ok`, and the first half read at that
word. -/
theorem decodeEncodeAgree : Obligations.DecodeEncodeAgree := by
  refine ⟨decode_encode, fun cmd o i h => ?_⟩
  have hword : (encode i).1 = cmd := encode_word_of_decode_ok h
  exact ⟨hword, hword ▸ decode_encode i⟩

/-- Settles O2: the ten rows are the decoder's own equations, and every other word is reserved. -/
theorem opcodeMapIsTotal : Obligations.OpcodeMapIsTotal :=
  ⟨fun _ => ⟨rfl, rfl, rfl, rfl, rfl, rfl, rfl, rfl, rfl, rfl⟩, fun _ => decode_reserved⟩

/-- Settles O3: four fixed words, evaluated. -/
theorem sampleCommandWordsDecode : Obligations.SampleCommandWordsDecode := by
  unfold Obligations.SampleCommandWordsDecode
  decide

end Sys2Proof
end

section
/-! The step on a reserved command word (spec/30_encoding.md R93). -/

namespace Sys2Proof.Machine

/-- The step's equation for a presented request whose word is reserved: it is taken and refused. -/
theorem step_of_decode_error {s : State} {r : Request} {rest : List Request} {cmd : Byte}
    (hport : s.port = r :: rest) (hdecode : decode r.cmd r.operands = .error (.illegalCommand cmd)) :
    step s = .next ((s.take r rest).refuse .illegalCommand) := by
  simp only [step, hport, hdecode]

/-- Settles O8: a reserved word does not decode, and the refusal that follows comes before any test
of `FAULT`. -/
theorem reservedWordIsRefused : Obligations.ReservedWordIsRefused := fun _ q _ hport hreserved =>
  ⟨.none, step_of_decode_error hport (decode_reserved q.operands hreserved)⟩

end Sys2Proof.Machine
end

section
/-! Cells: the two-bit code of R95 and the intensity bands of R210. -/

namespace Sys2Proof.Machine

/-! ## The cell code -/

theorem cellOfCode_cellCode (c : Cell) : cellOfCode (cellCode c) = some c := by
  cases c <;> rfl

theorem cellCode_injective : Function.Injective cellCode := fun c c' h =>
  Option.some.inj (by rw [← cellOfCode_cellCode c, h, cellOfCode_cellCode c'])

/-- The code of a data cell is its bit below a high bit 0 (R95). -/
theorem cellCode_cellOfBit (b : Bit) : cellCode (cellOfBit b) = BitVec.ofNat 2 b.toNat := by
  cases b <;> rfl

/-- The data cell of a bit is the one cell that carries it (R11). -/
theorem bitOfCell_eq_some_iff {c : Cell} {b : Bit} : bitOfCell c = some b ↔ c = cellOfBit b := by
  cases c <;> cases b <;> decide

/-- Settles O4: a cell carries `b` when it is `CellOfBit b`, which its code decides. -/
theorem cellCodesAreInjective : Obligations.CellCodesAreInjective := by
  refine ⟨cellOfCode_cellCode, rfl, fun c b => ?_⟩
  calc bitOfCell c = some b
    _ ↔ c = cellOfBit b := bitOfCell_eq_some_iff
    _ ↔ cellCode c = cellCode (cellOfBit b) := cellCode_injective.eq_iff.symm
    _ ↔ cellCode c = BitVec.ofNat 2 b.toNat := by rw [cellCode_cellOfBit]

/-! ## The intensity bands -/

/-- Every intensity is in the band of its cell, the `Pad` band tested first (R210). -/
theorem classify_cases (v : Byte) :
    (classify v = .pad ∧ 80 ≤ v.toNat ∧ v.toNat ≤ 89) ∨
    (classify v = .zero ∧ (v.toNat ≤ 79 ∨ (90 ≤ v.toNat ∧ v.toNat ≤ 127))) ∨
    (classify v = .one ∧ 128 ≤ v.toNat) := by
  have hbands : classify v =
      if 80 ≤ v.toNat ∧ v.toNat < 90 then .pad else if v.toNat < 128 then .zero else .one := rfl
  rw [hbands]
  split_ifs with hpad hzero
  · exact .inl ⟨rfl, by omega⟩
  · exact .inr (.inl ⟨rfl, by omega⟩)
  · exact .inr (.inr ⟨rfl, by omega⟩)

/-- Settles O27: the bands exclude each other, so each is all of its cell's intensities; the counts
evaluate the 256 intensities. -/
theorem classifyPartitionsIntensities : Obligations.ClassifyPartitionsIntensities := by
  refine ⟨fun v => ?_, rfl, rfl, rfl⟩
  rcases classify_cases v with ⟨hcell, hband⟩ | ⟨hcell, hband⟩ | ⟨hcell, hband⟩ <;>
    simp only [hcell, reduceCtorEq, true_iff, false_iff] <;> omega

end Sys2Proof.Machine
end

section
/-! The result port of an op that does not complete (log entry 2). -/

namespace Sys2Proof.Machine

/-- An accepted frame ends with `ADVANCE` or `TERMINAL`, both of them completions (R229, R279). -/
theorem acceptStatus_code_lt (npad : Nat) : (acceptStatus npad).code.toNat < 3 := by
  unfold acceptStatus
  split_ifs <;> decide

/-- Every op leaves the result port empty, or ends with one of the three codes of an op that
completed: `OK`, `ADVANCE` and `TERMINAL` (R279). -/
theorem exec_result_eq_none_or_completed {i : Instr} {s t : State} (h : exec i s = .next t) :
    t.result = .none ∨ t.st.toNat < 3 := by
  rcases exec_cases h with ⟨-, rfl⟩ | ⟨-, _, rfl⟩ |
    ⟨_, _, _, _, _, _, _, _, -, -, -, ⟨_, rfl⟩ | ⟨-, rfl⟩⟩ |
    ⟨-, ⟨_, rfl⟩ | ⟨-, _, rfl⟩⟩ | ⟨_, -, -, -, -, rfl⟩ |
    ⟨-, -, -, -, ⟨-, rfl⟩ | ⟨-, _, _, -, -, rfl⟩⟩ |
    ⟨-, -, -, -, _, -, ⟨_, _, -, rfl⟩ | ⟨-, -, rfl⟩⟩
  · exact .inl rfl
  · exact .inl rfl
  · exact .inl rfl
  · exact .inl rfl
  · exact .inr (by simp)
  · exact .inl rfl
  · exact .inl rfl
  · exact .inl rfl
  · exact .inr (by simp)
  · exact .inl rfl
  · exact .inr (acceptStatus_code_lt _)

/-- Settles O51: the codes from 3 on are not those of a completion. -/
theorem noRecordWithoutCompletion : Obligations.NoRecordWithoutCompletion := by
  intro i s t h hst
  rcases exec_result_eq_none_or_completed h with hnone | hcompleted
  · exact hnone
  · omega

end Sys2Proof.Machine
end

section
/-! `RST` and `CFG` (spec/40_system_config.md R120 to R124). -/

namespace Sys2Proof.Machine

/-! ## `RST` -/

/-- Restarting twice is restarting once. -/
@[simp] theorem restart_restart (s : State) : s.restart.restart = s.restart := rfl

/-- An op that needs a configuration is refused right after reset (test 4 of R278). -/
theorem admission_restart_eq_notConfigured {i : Instr} (hi : needsConfig i = true) (s : State) :
    admission i s.restart = some .notConfigured := by
  have hne : i ≠ .rst := by rintro rfl; simp [needsConfig] at hi
  simp [admission_eq hne, hi]

/-- Settles O10: the next state is `State.restart`, where `CFGV` is 0, so that `ENC.NEXT` fails
test 4 of R278. -/
theorem rstRestoresReset : Obligations.RstRestoresReset := by
  refine fun s => ⟨s.restart, execRst_eq s, rfl, ?_, .none, ?_⟩
  · calc exec .rst s.restart
      _ = .next s.restart.restart := execRst_eq s.restart
      _ = .next s.restart := by rw [restart_restart]
  · obtain ⟨body, hbody⟩ := exec_eq_performed .encNext s.restart
    rw [hbody, performed_refused (admission_restart_eq_notConfigured rfl s)]
    rfl

/-! ## `CFG` -/

section
variable {s : State} {rows cols tlx tly trx try_ blx bly : Nat}

/-- `CFG` is admitted exactly while there is no fault and no configuration (tests 3 and 5 of R278). -/
theorem admission_cfg_eq_none_iff :
    admission (.cfg rows cols tlx tly trx try_ blx bly) s = none ↔
      s.fault = 0#3 ∧ s.cfgv = false := by
  simp [admission_eq_none_iff, needsConfig, ownTest]

/-- An admitted `CFG` whose checks hold latches its operands and completes (R122). -/
theorem exec_cfg_of_checks_hold (hf : s.fault = 0#3) (hc : s.cfgv = false)
    (hchecks : cfgCheck rows cols tlx tly trx bly = none) :
    exec (.cfg rows cols tlx tly trx try_ blx bly) s =
      .next ((s.latchConfig rows cols tlx tly trx try_ blx bly).complete .none) := by
  rw [exec, execCfg, performed_admitted (admission_cfg_eq_none_iff.2 ⟨hf, hc⟩), hchecks]

/-- An admitted `CFG` with a failed check raises the fatal `GeometryMisconfiguration`, the number of
the check in `INFO` (R122, R123, R276). -/
theorem exec_cfg_of_check_fails {i : BitVec 8} (hf : s.fault = 0#3) (hc : s.cfgv = false)
    (hcheck : cfgCheck rows cols tlx tly trx bly = some i) :
    exec (.cfg rows cols tlx tly trx try_ blx bly) s =
      .next (({ s with fault := 5#3 } : State).report 5#4 5#3 i .none) := by
  rw [exec, execCfg, performed_admitted (admission_cfg_eq_none_iff.2 ⟨hf, hc⟩), hcheck]
  exact congrArg Host.Outcome.next (raiseError_fatal hf .geometryMisconfiguration i)

end

/-- Settles O11: the five checks are the premises of `cfgCheck_eq_none_iff`. -/
theorem cfgLatchesConfiguration : Obligations.CfgLatchesConfiguration := by
  intro s rows cols tlx tly trx try_ blx bly hf hc hrows hcols hcells haligned hx hy
  exact exec_cfg_of_checks_hold hf hc
    (cfgCheck_eq_none_iff.2 ⟨hrows, hcols, hcells, haligned, hx, hy⟩)

/-- Settles O12: in each clause `cfgCheck` passes its tests up to the one that fails. -/
theorem cfgFirstFailingCheckDecides : Obligations.CfgFirstFailingCheckDecides := by
  intro s rows cols tlx tly trx try_ blx bly hf hc fails check1 check2 check3 check4 check5
  have fails_of_cfgCheck {i : BitVec 8} (h : cfgCheck rows cols tlx tly trx bly = some i) :
      fails i := ⟨.none, exec_cfg_of_check_fails hf hc h⟩
  refine ⟨fun h1 => ?_, fun h1 h2 => ?_, fun h1 h2 h3 => ?_, fun h1 h2 h3 h4 => ?_,
    fun h1 h2 h3 h4 h5 => ?_⟩ <;> apply fails_of_cfgCheck <;> unfold cfgCheck
  · rw [if_pos h1]
  · rw [if_neg (not_not.2 h1), if_pos h2]
  · rw [if_neg (not_not.2 h1), if_neg (not_not.2 h2), if_pos h3]
  · rw [if_neg (not_not.2 h1), if_neg (not_not.2 h2), if_neg (not_not.2 h3), if_pos h4]
  · rw [if_neg (not_not.2 h1), if_neg (not_not.2 h2), if_neg (not_not.2 h3),
      if_neg (not_not.2 h4), if_pos h5]

end Sys2Proof.Machine
end

section
/-! `grid_geometry` (spec/41_grid_geometry.md R141 to R149): the sample points, the ops that return
them, and the frame of every op that only reads. -/

namespace Sys2Proof.Machine

/-! ## The truncated centre

On either axis of R142: division `i` of `n` equal parts of `size` pixels. -/

section
variable {i j n size : Nat}

/-- The integer division of R142 is the floor of the rational centre, the unit being `size / n`. -/
theorem natCast_centre_eq_floor (hn : 1 ≤ n) (start : Nat) :
    ((start + (2 * i + 1) * size / (2 * n) : Nat) : ℤ) =
      ⌊(start : ℚ) + ((i : ℚ) + 1 / 2) * ((size : ℚ) / (n : ℚ))⌋ := by
  have hcentre : ((i : ℚ) + 1 / 2) * ((size : ℚ) / (n : ℚ)) =
      ((((2 * i + 1) * size : Nat) : ℤ) : ℚ) / ((2 * n : Nat) : ℚ) := by
    have hne : (n : ℚ) ≠ 0 := Nat.cast_ne_zero.2 (by omega)
    push_cast
    field_simp
  rw [hcentre, Int.floor_natCast_add, Rat.floor_intCast_div_natCast, Nat.cast_add, Int.natCast_div]

/-- A later centre is not before an earlier one (R145). -/
theorem centre_mono (h : i ≤ j) : (2 * i + 1) * size / (2 * n) ≤ (2 * j + 1) * size / (2 * n) :=
  Nat.div_le_div_right (Nat.mul_le_mul_right size (by omega))

/-- Neighbouring centres are `size / n` apart, a pixel at least where `n ≤ size` (R145). -/
theorem centre_strictMono (hn : 1 ≤ n) (hpitch : n ≤ size) (h : i < j) :
    (2 * i + 1) * size / (2 * n) < (2 * j + 1) * size / (2 * n) := by
  have hstep : (2 * i + 1) * size + 2 * n ≤ (2 * (i + 1) + 1) * size := by
    calc (2 * i + 1) * size + 2 * n
      _ ≤ (2 * i + 1) * size + 2 * size := by omega
      _ = (2 * (i + 1) + 1) * size := by ring
  calc (2 * i + 1) * size / (2 * n)
    _ < (2 * i + 1) * size / (2 * n) + 1 := Nat.lt_succ_self _
    _ = ((2 * i + 1) * size + 2 * n) / (2 * n) := (Nat.add_div_right _ (by omega)).symm
    _ ≤ (2 * (i + 1) + 1) * size / (2 * n) := Nat.div_le_div_right hstep
    _ ≤ (2 * j + 1) * size / (2 * n) := centre_mono h

end

/-! ## The sample points -/

/-- Settles O16: the model's sample point is the integer form by definition, and each coordinate is
the floor by `natCast_centre_eq_floor`. -/
theorem samplePointIsTheTruncatedCentre : Obligations.SamplePointIsTheTruncatedCentre :=
  fun s hrows hcols =>
    ⟨fun _ _ _ _ => ⟨rfl, natCast_centre_eq_floor hcols s.tlx, natCast_centre_eq_floor hrows s.tly⟩,
      fun _ _ => rfl⟩

/-- Settles O17: a configured rectangle has a pixel at least on either axis, and the centre is one of
them by `centre_lt`. -/
theorem samplePointsLieInTheRectangle : Obligations.SamplePointsLieInTheRectangle := by
  intro s row col hconfig hc hrow hcol
  obtain ⟨-, -, -, -, -, -, hx, hy, hw, hh⟩ := hconfig.1 hc
  have hsx : (2 * col + 1) * s.w / (2 * s.cols) < s.w := centre_lt hcol (by omega)
  have hsy : (2 * row + 1) * s.h / (2 * s.rows) < s.h := centre_lt hrow (by omega)
  exact ⟨Nat.le_add_right _ _, Nat.le_sub_one_of_lt (Nat.add_lt_add_left hsx s.tlx),
    Nat.le_add_right _ _, Nat.le_sub_one_of_lt (Nat.add_lt_add_left hsy s.tly)⟩

/-- Settles O18: either axis by `centre_mono` and `centre_strictMono`. -/
theorem samplePointsAreOrdered : Obligations.SamplePointsAreOrdered := by
  intro s row row' col col' hrows hcols
  exact ⟨fun h => Nat.add_le_add_left (centre_mono h) s.tlx,
    fun h => Nat.add_le_add_left (centre_mono h) s.tly,
    fun hpitch h => Nat.add_lt_add_left (centre_strictMono hcols hpitch h) s.tlx,
    fun hpitch h => Nat.add_lt_add_left (centre_strictMono hrows hpitch h) s.tly⟩

/-! ## The ops -/

/-- An op that completes writes `OK`, no error and no `INFO`, and its record (R279). -/
theorem complete_eq_report (s : State) (r : Result) : s.complete r = s.report 0#4 0#3 0#8 r := rfl

/-- In a configured block without a fault, only an op's own test is left (R278). -/
theorem admission_of_configured {i : Instr} {s : State} (hi : i ≠ .rst) (hf : s.fault = 0#3)
    (hc : s.cfgv = true) : admission i s = ownTest i s := by
  simp [admission_eq hi, hf, hc]

/-- Settles O14: the range of the operands is the op's own test. -/
theorem geoPtReturnsSamplePoint : Obligations.GeoPtReturnsSamplePoint := by
  intro s row col hf hc hrow hcol
  have hadmitted : admission (.geoPt row col) s = none := by
    rw [admission_of_configured (by simp) hf hc, ownTest, if_neg (by omega)]
  rw [exec, execGeoPt, performed_admitted hadmitted, complete_eq_report, State.samplePt]

/-- Settles O15: neither op has a test of its own. -/
theorem geoRectAndPitchReturn : Obligations.GeoRectAndPitchReturn := by
  intro s hf hc
  have hrect : admission .geoRect s = none := admission_of_configured (by simp) hf hc
  have hpitch : admission .geoPitch s = none := admission_of_configured (by simp) hf hc
  constructor
  · rw [exec, execGeoRect, performed_admitted hrect, complete_eq_report]
  · rw [exec, execGeoPitch, performed_admitted hpitch, complete_eq_report]

/-! ## The ops that only read -/

/-- Settles O45: the one row of `Writes` that such an op has leaves the state as it is, and what
follows it is the result registers. -/
theorem readingOpsWriteResultsOnly : Obligations.ReadingOpsWriteResultsOnly := by
  intro i s t hi h
  have hne : i ≠ .rst := by rintro rfl; simp at hi
  obtain ⟨u, st, e, info, r, hw, rfl⟩ := exec_writes_of_ne_rst hne h
  cases hw with
  | nothing => rfl
  | configFault | config | payload | drainedFault | frame | output => simp at hi

end Sys2Proof.Machine
end

section
/-! SHA-256 and the op `DIG` (spec/42_checksum_framer.md R160 to R165, R169): the rotations, the
message schedule, the padding, the domain of `Digest`, and how `DIG` answers. -/

namespace Sys2Proof.Machine

/-! ## Rotations -/

theorem Sha.toNat_shr (n : Nat) (x : Word) : (Sha.shr n x).toNat = x.toNat / 2 ^ n := by
  rw [Sha.shr, BitVec.toNat_ushiftRight, Nat.shiftRight_eq_div_pow]

/-- The bits that a rotation brings round to the top are the low `n` bits of the word. -/
theorem Sha.toNat_shiftLeft_complement {n : Nat} (x : Word) (hn : n ≤ 32) :
    (x <<< (32 - n)).toNat = 2 ^ (32 - n) * (x.toNat % 2 ^ n) := by
  have hwidth : 2 ^ (32 - n) * 2 ^ n = 2 ^ 32 := by rw [← pow_add, Nat.sub_add_cancel hn]
  rw [BitVec.toNat_shiftLeft, Nat.shiftLeft_eq, Nat.mul_comm, ← hwidth, Nat.mul_mod_mul_left]

/-- What a shift right leaves is below the bits that the rotation brings round. -/
theorem Sha.toNat_div_two_pow_lt {n : Nat} (x : Word) (hn : n ≤ 32) :
    x.toNat / 2 ^ n < 2 ^ (32 - n) := by
  apply Nat.div_lt_of_lt_mul
  rw [← pow_add, Nat.add_sub_cancel' hn]
  exact x.isLt

/-- The two halves of a rotation have no bit in common, so their `or` is their sum (R164). -/
theorem Sha.toNat_rotr {n : Nat} (x : Word) (hn : n ≤ 32) :
    (Sha.rotr n x).toNat = x.toNat / 2 ^ n + (x.toNat % 2 ^ n) * 2 ^ (32 - n) := by
  calc (Sha.rotr n x).toNat
    _ = 2 ^ (32 - n) * (x.toNat % 2 ^ n) ||| x.toNat / 2 ^ n := by
      rw [Sha.rotr, BitVec.toNat_or, Sha.toNat_shiftLeft_complement x hn,
        BitVec.toNat_ushiftRight, Nat.shiftRight_eq_div_pow, Nat.lor_comm]
    _ = 2 ^ (32 - n) * (x.toNat % 2 ^ n) + x.toNat / 2 ^ n :=
      (Nat.two_pow_add_eq_or_of_lt (Sha.toNat_div_two_pow_lt x hn) _).symm
    _ = x.toNat / 2 ^ n + (x.toNat % 2 ^ n) * 2 ^ (32 - n) := by
      rw [Nat.add_comm, Nat.mul_comm]

/-- Settles O24: R164 asks for `n < 32`, and the two equations need no more than `n ≤ 32`. -/
theorem shaRotationsAreArithmetic : Obligations.ShaRotationsAreArithmetic := fun n x _ hn =>
  ⟨Sha.toNat_shr n x, Sha.toNat_rotr x hn.le⟩

/-! ## The message schedule -/

/-- The recurrence of R169, at each place of a word string from place 16 on. -/
def Sha.Recurs (ws : List Word) : Prop :=
  ∀ t, 16 ≤ t → t < ws.length →
    ws.getD t 0 = Sha.smallSigma1 (ws.getD (t - 2) 0) + ws.getD (t - 7) 0 +
      Sha.smallSigma0 (ws.getD (t - 15) 0) + ws.getD (t - 16) 0

/-- `extend` adds its last word to the words before it. -/
theorem Sha.extend_succ (n : Nat) (latest : List Word) :
    Sha.extend (n + 1) latest =
      Sha.nextWord (Sha.extend n latest) :: Sha.extend n latest := by
  induction n generalizing latest with
  | zero => rfl
  | succ n ih => exact ih (Sha.nextWord latest :: latest)

theorem Sha.length_extend (n : Nat) (latest : List Word) :
    (Sha.extend n latest).length = latest.length + n := by
  induction n with
  | zero => rfl
  | succ n ih => rw [Sha.extend_succ, List.length_cons, ih, Nat.add_assoc]

/-- The words that `extend` starts from stay as they are. -/
theorem Sha.suffix_extend (n : Nat) (latest : List Word) : latest <:+ Sha.extend n latest := by
  induction n with
  | zero => exact List.suffix_rfl
  | succ n ih => exact Sha.extend_succ n latest ▸ ih.trans (List.suffix_cons _ _)

/-- Place `i` of the words listed latest first is place `t − 1 − i` of them in their order. -/
theorem Sha.getD_latest {latest : List Word} {i : Nat} (h : i < latest.length) :
    latest.getD i 0 = latest.reverse.getD (latest.length - 1 - i) 0 := by
  rw [List.getD_reverse _ (by omega)]
  congr 1
  omega

/-- `nextWord` is the word that the recurrence asks for after sixteen words or more. -/
theorem Sha.recurs_nextWord {latest : List Word} (hlength : 16 ≤ latest.length)
    (h : Sha.Recurs latest.reverse) :
    Sha.Recurs (Sha.nextWord latest :: latest).reverse := by
  intro t ht hlt
  have hbefore : ∀ j < latest.length, (Sha.nextWord latest :: latest).reverse.getD j 0 =
      latest.reverse.getD j 0 := fun j hj => by
    rw [List.reverse_cons, List.getD_append _ _ _ _ (by rwa [List.length_reverse])]
  rw [List.length_reverse, List.length_cons] at hlt
  rw [hbefore (t - 2) (by omega), hbefore (t - 7) (by omega), hbefore (t - 15) (by omega),
    hbefore (t - 16) (by omega)]
  rcases Nat.lt_succ_iff_lt_or_eq.1 hlt with hold | rfl
  · rw [hbefore t hold]
    exact h t ht (by rwa [List.length_reverse])
  · have hnew : (Sha.nextWord latest :: latest).reverse.getD latest.length 0 =
        Sha.nextWord latest := by simp
    rw [hnew, Sha.nextWord, Sha.getD_latest (i := 1) (by omega),
      Sha.getD_latest (i := 6) (by omega), Sha.getD_latest (i := 14) (by omega),
      Sha.getD_latest (i := 15) (by omega)]
    rfl

theorem Sha.recurs_extend {latest : List Word} (n : Nat) (hlength : 16 ≤ latest.length)
    (h : Sha.Recurs latest.reverse) : Sha.Recurs (Sha.extend n latest).reverse := by
  induction n with
  | zero => exact h
  | succ n ih =>
    rw [Sha.extend_succ]
    exact Sha.recurs_nextWord (by rw [Sha.length_extend]; omega) ih

/-- Sixteen words have no place that the recurrence speaks of. -/
theorem Sha.recurs_of_length_le {ws : List Word} (h : ws.length ≤ 16) : Sha.Recurs ws :=
  fun t ht hlt => absurd hlt (by omega)

theorem Sha.length_schedule (block : List Word) :
    (Sha.schedule block).length = block.length + 48 := by
  rw [Sha.schedule, List.length_reverse, Sha.length_extend, List.length_reverse]

/-- A schedule begins with its block (R169). -/
theorem Sha.schedule_begins_with_block (block : List Word) : block <+: Sha.schedule block := by
  rw [Sha.schedule, ← List.reverse_suffix, List.reverse_reverse]
  exact Sha.suffix_extend 48 block.reverse

theorem Sha.recurs_schedule {block : List Word} (h : block.length = 16) :
    Sha.Recurs (Sha.schedule block) :=
  Sha.recurs_extend 48 (by rw [List.length_reverse, h])
    (Sha.recurs_of_length_le (by rw [List.reverse_reverse, h]))

/-- Settles O25: each word that `extend` adds keeps the recurrence, and a block has no word of which
it speaks. -/
theorem shaScheduleRecurrence : Obligations.ShaScheduleRecurrence := by
  intro block hblock W
  have hlength : (Sha.schedule block).length = 64 := by rw [Sha.length_schedule, hblock]
  refine ⟨hlength, fun t ht => ?_, fun t ht hlt => ?_⟩
  · obtain ⟨later, hlater⟩ := Sha.schedule_begins_with_block block
    simp only [W]
    rw [← hlater, List.getD_append _ _ _ _ (by omega)]
  · exact Sha.recurs_schedule hblock t ht (by omega)

/-! ## The padding -/

/-- `beBytes n x` are the `n` low base-256 digits of `x` (R64). -/
theorem Sha.bitsToNat_unpack_beBytes (n x : Nat) :
    bitsToNat (unpack (Sha.beBytes n x)) = x % 256 ^ n := by
  induction n generalizing x with
  | zero => rw [pow_zero, Nat.mod_one]; rfl
  | succ n ih =>
    have hlast : bitsToNat (unpack [BitVec.ofNat 8 x]) = x % 256 := by
      rw [bitsToNat_unpack]; simp
    rw [Sha.beBytes, unpack_append, bitsToNat_append, ih, hlast, length_unpack, Nat.pow_succ',
      Nat.mod_mul, Nat.add_comm]
    rfl

theorem unpack_replicate_zero (z : Nat) :
    unpack (List.replicate z 0x00#8) = List.replicate (8 * z) false := by
  induction z with
  | zero => rfl
  | succ z ih =>
    have hbyte : bits8 0x00#8 = List.replicate 8 false := by decide
    rw [List.replicate_succ, unpack, ih, hbyte, ← List.replicate_add, Nat.mul_succ, Nat.add_comm]

/-- The padding in bytes (R165). -/
theorem Sha.padMessage_eq (s : List Byte) :
    Sha.padMessage s = s ++ [0x80#8] ++ List.replicate (Sha.zeroBytes s.length) 0x00#8 ++
      Sha.beBytes 8 (8 * s.length) := rfl

/-- The padding in bits: the 1 and the first seven zeros are the byte `0x80` (R165). -/
theorem Sha.unpack_padMessage (s : List Byte) :
    unpack (Sha.padMessage s) = unpack s ++ [true] ++
      List.replicate (7 + 8 * Sha.zeroBytes s.length) false ++
      unpack (Sha.beBytes 8 (8 * s.length)) := by
  have hmark : unpack [0x80#8] = [true] ++ List.replicate 7 false := by decide
  rw [Sha.padMessage_eq, unpack_append, unpack_append, unpack_append, hmark, unpack_replicate_zero,
    List.replicate_add]
  simp only [List.append_assoc]

theorem Sha.length_padMessage (s : List Byte) :
    (Sha.padMessage s).length = 64 * ((s.length + 8) / 64 + 1) := by
  simp only [Sha.padMessage_eq, List.length_append, List.length_replicate, List.length_singleton,
    Sha.length_beBytes, Sha.zeroBytes]
  omega

/-- Settles O23: the zero bits are seven after the 1 and eight for each zero byte, of which there
are fewer than 64, so there are fewer than 512 and no smaller number will do. -/
theorem shaPaddingFillsWholeBlocks : Obligations.ShaPaddingFillsWholeBlocks := by
  intro s hs
  have hzeros : Sha.zeroBytes s.length = (119 - s.length % 64) % 64 := rfl
  refine ⟨⟨7 + 8 * Sha.zeroBytes s.length, unpack (Sha.beBytes 8 (8 * s.length)),
      by omega, fun j hj => by omega, ?_, ?_, Sha.unpack_padMessage s⟩,
    ⟨Sha.zeroBytes s.length, Sha.beBytes 8 (8 * s.length), by omega, Sha.length_beBytes 8 _,
      Sha.padMessage_eq s⟩,
    Sha.length_padMessage s⟩
  · rw [length_unpack, Sha.length_beBytes]
  · rw [Sha.bitsToNat_unpack_beBytes]
    exact Nat.mod_eq_of_lt hs

/-! ## The digest -/

/-- `Digest` fails exactly where the length is not a positive multiple of 8 (R160). -/
theorem digest_eq_none_iff {b : List Bit} :
    digest b = none ↔ ¬(0 < b.length ∧ b.length % 8 = 0) := by
  have hlengths : (b.length = 0 ∨ b.length % Config.byteBits ≠ 0) ↔
      ¬(0 < b.length ∧ b.length % 8 = 0) := by
    rw [Config.byteBits]; omega
  simp only [digest, ← hlengths, ite_eq_left_iff, reduceCtorEq, imp_false, not_not]

/-- The value of `Digest` on a positive multiple of 8 bits (R161). -/
theorem exists_digest_eq_some {b : List Bit} (hpos : 0 < b.length) (haligned : b.length % 8 = 0) :
    ∃ d, digest b = some d :=
  Option.ne_none_iff_exists'.1 fun h => digest_eq_none_iff.1 h ⟨hpos, haligned⟩

/-- `DIGEST_BITS` (R6). -/
theorem length_of_digest_eq_some {b d : List Bit} (h : digest b = some d) : d.length = 256 := by
  rw [digest_eq_some h, length_unpack, Sha.length_sha256]

/-- Settles O21: `Digest` has a value exactly on the aligned strings, and that value is a hash, of
32 bytes. -/
theorem digestIsTotalOnAlignedStrings : Obligations.DigestIsTotalOnAlignedStrings := by
  refine ⟨fun b hpos haligned => ?_, fun b => digest_eq_none_iff.2⟩
  obtain ⟨d, hd⟩ := exists_digest_eq_some hpos haligned
  exact ⟨d, hd, length_of_digest_eq_some hd⟩

/-! ## The op `DIG` -/

/-- A refused op writes `REFUSED` and the reason, and no record (R278). -/
theorem refuse_eq_report (s : State) (why : RefuseReason) :
    s.refuse why = s.report 6#4 0#3 why.code .none := rfl

/-- An error that is only reported sets no fault (R162, R279). -/
theorem raiseError_report_eq_report (s : State) (e : ErrorKind) (info : BitVec 8) :
    s.raiseError .report e info = s.report 4#4 e.code info .none := rfl

/-- `DIG` needs no configuration and has no test of its own (R162, R278). -/
theorem admission_dig (b : List Bit) (s : State) :
    admission (.dig b) s = if s.fault ≠ 0#3 then some .faulted else none := by
  simp [admission_eq, needsConfig, ownTest]

/-- Settles O26: the only test is the fault, and then `Digest` fails or has a value. -/
theorem digReturnsDigestOrReportsLength : Obligations.DigReturnsDigestOrReportsLength := by
  intro s b
  have hadmitted (hf : s.fault = 0#3) : admission (.dig b) s = none := by
    rw [admission_dig, if_neg (not_not.2 hf)]
  refine ⟨fun hf => ?_, fun hf hlength => ?_, fun hf hpos haligned => ?_⟩
  · have hrefused : admission (.dig b) s = some .faulted := by rw [admission_dig, if_pos hf]
    exact ⟨.none, by rw [exec, execDig, performed_refused hrefused, refuse_eq_report]; rfl⟩
  · refine ⟨.none, ?_⟩
    rw [exec, execDig, performed_admitted (hadmitted hf), digest_eq_none_iff.2 hlength]
    simp only [raiseError_report_eq_report]
    rfl
  · obtain ⟨d, hd⟩ := exists_digest_eq_some hpos haligned
    refine ⟨d, hd, ?_⟩
    rw [exec, execDig, performed_admitted (hadmitted hf), hd]
    simp only [complete_eq_report]

end Sys2Proof.Machine
end

section
/-! The cells of a frame (spec/43_frame_encoder.md R192, R196; spec/30_encoding.md R97 to R99): a
data region of payload cells and then `Pad`, and a checksum region of digest cells. -/

namespace Sys2Proof.Machine

/-! ## Cells that carry bits -/

@[simp] theorem bitOfCell_cellOfBit (b : Bit) : bitOfCell (cellOfBit b) = some b :=
  bitOfCell_eq_some_iff.2 rfl

@[simp] theorem cellOfBit_ne_pad (b : Bit) : cellOfBit b ≠ .pad := by cases b <;> decide

/-- No cell made of a bit is `Pad` (R11). -/
theorem pad_notMem_map_cellOfBit (b : List Bit) : Cell.pad ∉ b.map cellOfBit := by
  simp

/-- The valid bits of cells made of bits are these bits (R225). -/
theorem validBits_map_cellOfBit (b : List Bit) : validBits (b.map cellOfBit) = b := by
  have hinverse : bitOfCell ∘ cellOfBit = some := funext bitOfCell_cellOfBit
  rw [validBits, List.filterMap_map, hinverse, List.filterMap_some]

/-- `Pad` carries no bit, so it leaves the valid bits alone (R225). -/
theorem validBits_append_pads (data : List Cell) (n : Nat) :
    validBits (data ++ List.replicate n .pad) = validBits data := by
  rw [validBits, List.filterMap_append, List.filterMap_replicate_of_none rfl, List.append_nil,
    validBits]

/-! ## The data region -/

/-- The data region of the frame of a payload slice: the cells of its bits, then `Pad` up to `d`
cells (R192). -/
def dataRegion (d : Nat) (p : List Byte) : List Cell :=
  (unpack p).map cellOfBit ++ List.replicate (d - 8 * p.length) .pad

theorem length_map_cellOfBit_unpack (p : List Byte) :
    ((unpack p).map cellOfBit).length = 8 * p.length := by
  rw [List.length_map, length_unpack]

theorem length_dataRegion {d : Nat} {p : List Byte} (h : 8 * p.length ≤ d) :
    (dataRegion d p).length = d := by
  rw [dataRegion, List.length_append, length_map_cellOfBit_unpack, List.length_replicate,
    Nat.add_sub_cancel' h]

/-- Below `8n` stand the payload bits. -/
theorem dataRegion_getElem?_payload (d : Nat) {p : List Byte} {k : Nat} (h : k < 8 * p.length) :
    (dataRegion d p)[k]? = ((unpack p)[k]?).map cellOfBit := by
  rw [dataRegion, List.getElem?_append_left (by rwa [length_map_cellOfBit_unpack]),
    List.getElem?_map]

/-- From `8n` on stands `Pad`. -/
theorem dataRegion_getElem?_pad {d : Nat} {p : List Byte} {k : Nat} (hp : 8 * p.length ≤ k)
    (hd : k < d) : (dataRegion d p)[k]? = some .pad := by
  rw [dataRegion, List.getElem?_append_right (by rwa [length_map_cellOfBit_unpack]),
    length_map_cellOfBit_unpack, List.getElem?_replicate_of_lt (by omega)]

/-- The `Pad` cells of a data region are exactly its cells from `8n` on. -/
theorem dataRegion_getElem?_eq_pad_iff {d : Nat} {p : List Byte} {k : Nat} (hd : k < d) :
    (dataRegion d p)[k]? = some .pad ↔ 8 * p.length ≤ k := by
  refine ⟨fun hpad => ?_, fun hp => dataRegion_getElem?_pad hp hd⟩
  by_contra hlt
  rw [dataRegion_getElem?_payload d (not_le.1 hlt)] at hpad
  simp at hpad

theorem padCount_dataRegion (d : Nat) (p : List Byte) :
    padCount (dataRegion d p) = d - 8 * p.length := by
  rw [padCount, dataRegion, List.count_append,
    List.count_eq_zero.2 (pad_notMem_map_cellOfBit _), Nat.zero_add, List.count_replicate_self]

theorem pad_mem_dataRegion_iff {d : Nat} {p : List Byte} :
    Cell.pad ∈ dataRegion d p ↔ 8 * p.length < d := by
  rw [← List.count_pos_iff, ← padCount, padCount_dataRegion, Nat.sub_pos_iff_lt]

/-- Stripping the `Pad` cells gives the payload bits back. -/
theorem validBits_dataRegion (d : Nat) (p : List Byte) :
    validBits (dataRegion d p) = unpack p := by
  rw [dataRegion, validBits_append_pads, validBits_map_cellOfBit]

/-! ## The frame -/

/-- A frame is its data region and, after it, the digest of the payload bits (R192). -/
theorem makeFrame_eq_of_digest (d : Nat) {p : List Byte} {chk : List Bit}
    (h : digest (unpack p) = some chk) :
    makeFrame d p = some (dataRegion d p ++ chk.map cellOfBit) := by
  simp only [makeFrame, h, length_unpack, dataRegion]

/-- The bits of a payload slice that is not empty have a digest (R160). -/
theorem exists_digest_unpack {p : List Byte} (h : 1 ≤ p.length) :
    ∃ chk, digest (unpack p) = some chk :=
  exists_digest_eq_some (by rw [length_unpack]; omega) (by rw [length_unpack]; omega)

/-- Settles O30: the two parts of the data region and the digest after its `d` cells. -/
theorem makeFrameLayout : Obligations.MakeFrameLayout := by
  intro d p hp hfits
  obtain ⟨chk, hchk⟩ := exists_digest_unpack hp
  have hdata : (dataRegion d p).length = d := length_dataRegion hfits
  refine ⟨_, chk, makeFrame_eq_of_digest d hchk, hchk, ?_, fun k hk => ?_, fun k hk hkd => ?_,
    fun i _ => ?_⟩
  · rw [List.length_append, hdata, List.length_map, length_of_digest_eq_some hchk]
  · rw [List.getElem?_append_left (by omega), dataRegion_getElem?_payload d hk]
  · rw [List.getElem?_append_left (by omega), dataRegion_getElem?_pad hk hkd]
  · rw [List.getElem?_append_right (by omega), hdata, Nat.add_sub_cancel_left, List.getElem?_map]

/-- Settles O31: the first `d` cells are the data region and the others the checksum region, so each
fact is one about its region. -/
theorem encodedFrameFacts : Obligations.EncodedFrameFacts := by
  intro d p frame haligned hp hfits hmade
  obtain ⟨chk, hchk⟩ := exists_digest_unpack hp
  obtain rfl : dataRegion d p ++ chk.map cellOfBit = frame := by
    simpa [makeFrame_eq_of_digest d hchk] using hmade
  have hdata : (dataRegion d p).length = d := length_dataRegion hfits
  rw [List.take_left' hdata, List.drop_left' hdata, validBits_dataRegion, validBits_map_cellOfBit]
  refine ⟨?_, padCount_dataRegion d p, by omega, fun k hk => ?_, pad_notMem_map_cellOfBit chk, ?_,
    rfl, hchk⟩
  · rw [List.length_append, hdata, List.length_map, length_of_digest_eq_some hchk]
  · rw [List.getElem?_append_left (by omega), dataRegion_getElem?_eq_pad_iff hk]
  · rw [List.mem_append, or_iff_left (pad_notMem_map_cellOfBit chk), pad_mem_dataRegion_iff]
    omega

end Sys2Proof.Machine
end

section
/-! The encoder's ops and the repeated `ENC.NEXT` (spec/43_frame_encoder.md R191 to R195,
spec/46_sync_protocol.md R258). -/

namespace Sys2Proof.Machine

/-! ## `ENC.LOAD` -/

/-- The payload after a load is the operand (R39, R191). -/
theorem payload_loadPayload (s : State) (bytes : List Byte) :
    (s.loadPayload bytes).payload = bytes :=
  Memory.slice_store Memory.wf_nil 0 bytes

/-- Settles O29: without a loaded payload the op is admitted, and a store into the empty memory
holds its bytes and nothing after them. -/
theorem encLoadStoresThePayload : Obligations.EncLoadStoresThePayload := by
  intro s bytes hf hc hp
  have hadmitted : admission (.encLoad bytes) s = none := by
    rw [admission_of_configured (by simp) hf hc, ownTest, hp]
    rfl
  refine ⟨(s.loadPayload bytes).complete .none, ?_, rfl, payload_loadPayload s bytes,
    fun a ha => ?_⟩
  · rw [exec, execEncLoad, performed_admitted hadmitted]
  · calc (Memory.store [] 0 bytes).read a
      _ = Memory.read [] a := Memory.read_store_of_outside [] bytes (.inr (by omega))
      _ = Memory.unlisted := Memory.read_nil a

/-! ## `ENC.NEXT` -/

section
variable {s : State}

theorem admission_encNext (hf : s.fault = 0#3) (hc : s.cfgv = true) (hp : s.plv = true) :
    admission .encNext s = none := by
  rw [admission_of_configured (by simp) hf hc, ownTest, hp]
  rfl

/-- The state an `ENC.NEXT` that emits `frame` leaves (R193). -/
def State.afterEncNext (s : State) (frame : List Cell) : State :=
  (s.emitFrame frame s.nextCount).complete (.emitted s.nextCount (encLastFlag s.nextCount s.db))

/-- With a payload byte left and room for one in a frame, the next frame carries at least one. -/
theorem nextCount_pos (hleft : s.encOff < s.plen) (hdb : 1 ≤ s.db) : 1 ≤ s.nextCount :=
  Nat.le_min.2 ⟨by omega, hdb⟩

/-- `ENC.NEXT` with a payload byte left emits the frame of the next bytes (R193). -/
theorem exec_encNext_emits (hf : s.fault = 0#3) (hc : s.cfgv = true) (hp : s.plv = true)
    (hleft : s.encOff < s.plen) (hdb : 1 ≤ s.db) :
    ∃ frame, makeFrame s.d (s.pay.slice s.encOff s.nextCount) = some frame ∧
      exec .encNext s = .next (s.afterEncNext frame) := by
  have hcount : 1 ≤ s.nextCount := nextCount_pos hleft hdb
  obtain ⟨chk, hchk⟩ := exists_digest_unpack (p := s.pay.slice s.encOff s.nextCount)
    (by rwa [Memory.slice_length])
  have hmade := makeFrame_eq_of_digest s.d hchk
  refine ⟨_, hmade, ?_⟩
  rw [exec, execEncNext, performed_admitted (admission_encNext hf hc hp), if_neg (by omega),
    nextBytes_eq hleft.le]
  simp only [hmade, State.afterEncNext]

/-- `ENC.NEXT` with no payload byte left is a fatal error (R195). -/
theorem exec_encNext_of_drained (hf : s.fault = 0#3) (hc : s.cfgv = true) (hp : s.plv = true)
    (hend : s.encOff = s.plen) :
    exec .encNext s = .next (s.raiseError .fatal .invalidBitLength 0#8) := by
  have hcount : s.nextCount = 0 := by rw [State.nextCount, hend, Nat.sub_self, Nat.zero_min]
  rw [exec, execEncNext, performed_admitted (admission_encNext hf hc hp), if_pos hcount]

end

/-- Settles O32: `State.afterEncNext` is the stated update, `nextCount` and `DB` written out. -/
theorem encNextEmitsTheNextSlice : Obligations.EncNextEmitsTheNextSlice := by
  intro s hf hc hp hleft hd
  have hdb : 1 ≤ s.d / 8 := by omega
  exact exec_encNext_emits hf hc hp hleft hdb

/-- Settles O33: the fault recorded is not 0, so R278 has every op but `RST` refused. -/
theorem encNextWithNothingLeftIsFatal : Obligations.EncNextWithNothingLeftIsFatal := by
  intro s hf hc hp hend
  have hwritten := raiseError_fatal hf .invalidBitLength 0#8
  have hfault : (s.raiseError .fatal .invalidBitLength 0#8).fault ≠ 0#3 := by
    rw [State.raiseError_fault, hf]
    decide
  obtain ⟨hrefused, -⟩ := faultIsStickyUntilReset _ hfault
  exact ⟨_, .none, exec_encNext_of_drained hf hc hp hend, hwritten, hrefused⟩

/-! ## The number of frames (R194) -/

/-- The frames that `len` payload bytes take, `db` bytes a frame. -/
def frameCount (len db : Nat) : Nat := len / db + if len % db = 0 then 0 else 1

theorem frameCount_zero (db : Nat) : frameCount 0 db = 0 := by
  simp [frameCount]

/-- A rest that does not fill a frame takes one. -/
theorem frameCount_of_lt {len db : Nat} (hpos : 0 < len) (h : len < db) :
    frameCount len db = 1 := by
  rw [frameCount, Nat.div_eq_of_lt h, Nat.mod_eq_of_lt h, if_neg (by omega)]

/-- A full frame takes its `db` bytes away. -/
theorem frameCount_of_le {len db : Nat} (hdb : 1 ≤ db) (h : db ≤ len) :
    frameCount len db = frameCount (len - db) db + 1 := by
  rw [frameCount, frameCount, Nat.div_eq_sub_div hdb h, Nat.mod_eq_sub_mod h]
  omega

/-! ## `ENC.ALL` -/

/-- A state from which `ENC.ALL` goes on: `ENC.NEXT` is admitted, a frame has room for a byte, and
no terminal frame was emitted. -/
structure State.Encoding (s : State) : Prop where
  fault : s.fault = 0#3
  cfgv : s.cfgv = true
  plv : s.plv = true
  room : 1 ≤ s.db
  offset : s.encOff ≤ s.plen
  notLast : s.encLast = false

/-- What `ENC.ALL` from `s` comes to, with the frames recorded and the state it leaves: one frame
for each `DB` bytes left and one for a rest, which is the terminal one. -/
structure State.Encoded (s : State) (frames : List (List Cell)) (t : State) : Prop where
  count : frames.length = frameCount (s.plen - s.encOff) s.db
  offset : t.encOff = s.plen
  fault : t.fault = 0#3
  last : t.encLast = true ↔ (s.plen - s.encOff) % s.db ≠ 0

/-- With no payload byte left, nothing is emitted. -/
theorem State.Encoding.encoded_of_drained {s : State} (hs : s.Encoding) (hend : s.encOff = s.plen) :
    s.Encoded [] s where
  count := by rw [hend, Nat.sub_self, frameCount_zero, List.length_nil]
  offset := hend
  fault := hs.fault
  last := by simp [hs.notLast, hend]

section
variable {s : State} (frame : List Cell)

theorem afterEncNext_encLast : (s.afterEncNext frame).encLast = decide (s.nextCount < s.db) := rfl

/-- The bytes left do not fill a frame: it carries all of them and is the terminal one. -/
theorem State.Encoding.encoded_of_rest (hs : s.Encoding) (hleft : s.encOff < s.plen)
    (hrest : s.plen - s.encOff < s.db) : s.Encoded [frame] (s.afterEncNext frame) := by
  have hcount : s.nextCount = s.plen - s.encOff := Nat.min_eq_left hrest.le
  refine ⟨(frameCount_of_lt (by omega) hrest).symm, ?_, hs.fault, ?_⟩
  · show s.encOff + s.nextCount = s.plen
    omega
  · have hmod : (s.plen - s.encOff) % s.db = s.plen - s.encOff := Nat.mod_eq_of_lt hrest
    simp only [afterEncNext_encLast, decide_eq_true_eq]
    omega

/-- After a full frame `ENC.ALL` goes on (R258). -/
theorem State.Encoding.of_full_frame (hs : s.Encoding) (hfull : s.db ≤ s.plen - s.encOff) :
    (s.afterEncNext frame).Encoding := by
  have hcount : s.nextCount = s.db := Nat.min_eq_right hfull
  refine ⟨hs.fault, hs.cfgv, hs.plv, hs.room, ?_, ?_⟩
  · show s.encOff + s.nextCount ≤ s.plen
    have hroom := hs.room
    omega
  · simp [afterEncNext_encLast, hcount]

/-- The frames of a payload are the first full one and those that `ENC.ALL` records after it. -/
theorem State.Encoded.cons {frames : List (List Cell)} {t : State} (hroom : 1 ≤ s.db)
    (hfull : s.db ≤ s.plen - s.encOff) (h : (s.afterEncNext frame).Encoded frames t) :
    s.Encoded (frame :: frames) t := by
  have hcount : s.nextCount = s.db := Nat.min_eq_right hfull
  have hleft : s.plen - (s.encOff + s.nextCount) = s.plen - s.encOff - s.db := by omega
  have hframes : frames.length = frameCount (s.plen - (s.encOff + s.nextCount)) s.db := h.count
  have hlast : t.encLast = true ↔ (s.plen - (s.encOff + s.nextCount)) % s.db ≠ 0 := h.last
  rw [hleft] at hframes hlast
  refine ⟨?_, h.offset, h.fault, ?_⟩
  · rw [List.length_cons, hframes, frameCount_of_le hroom hfull]
  · rw [hlast, Nat.mod_eq_sub_mod hfull]

end

/-- With as many ops as there are bytes left, `ENC.ALL` comes to its end: every frame takes a byte
at least. -/
theorem encAllFrom_encoded {fuel : Nat} {s : State} (hs : s.Encoding)
    (hfuel : s.plen - s.encOff ≤ fuel) :
    ∃ frames t, encAllFrom fuel s = .next (frames, t) ∧ s.Encoded frames t := by
  induction fuel generalizing s with
  | zero =>
    have hend : s.encOff = s.plen := Nat.le_antisymm hs.offset (by omega)
    exact ⟨[], s, encAllFrom_done hend, hs.encoded_of_drained hend⟩
  | succ fuel ih =>
    rcases hs.offset.eq_or_lt with hend | hleft
    · exact ⟨[], s, encAllFrom_done hend, hs.encoded_of_drained hend⟩
    · obtain ⟨frame, -, hexec⟩ := exec_encNext_emits hs.fault hs.cfgv hs.plv hleft hs.room
      rcases Nat.lt_or_ge (s.plen - s.encOff) s.db with hrest | hfull
      · have hlast : (s.afterEncNext frame).encLast = true := by
          rw [afterEncNext_encLast, decide_eq_true_eq, State.nextCount]
          omega
        exact ⟨[frame], _, encAllFrom_last hleft.ne hexec rfl hlast,
          hs.encoded_of_rest frame hleft hrest⟩
      · have hgoes := hs.of_full_frame frame hfull
        have hcount : 1 ≤ s.nextCount := nextCount_pos hleft hs.room
        have hfuel' : s.plen - (s.encOff + s.nextCount) ≤ fuel := by omega
        obtain ⟨frames, t, hall, hencoded⟩ := ih hgoes hfuel'
        exact ⟨frame :: frames, t, encAllFrom_more hleft.ne hexec rfl hgoes.notLast hall,
          hencoded.cons frame hs.room hfull⟩

/-- Before the first byte is emitted no frame is terminal: a frame in `FB` has a byte (R192). -/
theorem encLast_eq_false_of_encOff_eq_zero {s : State} (hencoder : s.EncoderInv)
    (hframe : s.FrameInv) (hoff : s.encOff = 0) : s.encLast = false := by
  obtain ⟨-, -, -, -, hempty⟩ := hencoder
  cases hfb : s.fb with
  | none =>
    obtain ⟨-, hlast⟩ := hempty hfb
    exact hlast
  | some frame =>
    obtain ⟨n, hpos, -, hn, -⟩ := hframe frame hfb
    omega

/-- Settles O34: a freshly loaded payload starts `ENC.ALL` with all its bytes left. -/
theorem encAllFrameCount : Obligations.EncAllFrameCount := by
  intro s hs hf hp hoff
  obtain ⟨-, hconfigured, -⟩ := hs.encoder
  have hc : s.cfgv = true := hconfigured hp
  have hstart : s.Encoding := ⟨hf, hc, hp, db_pos hs.config hc, by omega,
    encLast_eq_false_of_encOff_eq_zero hs.encoder hs.frame hoff⟩
  obtain ⟨frames, t, hall, hcount, hoffset, hfault, hlast⟩ :=
    encAllFrom_encoded hstart (Nat.sub_le _ _)
  rw [hoff, Nat.sub_zero] at hcount hlast
  exact ⟨frames, t, hall, hcount, hoffset, hfault, fun _ => hlast⟩

end Sys2Proof.Machine
end

section
/-! The classifier's op `CLS` (spec/44_pixel_classifier.md R210, R212) and the intensity contract
(R213): the cells of a grid whose pitch is a pixel or more are sampled at addresses of their own, so
painting one cell leaves every other sampled intensity alone. -/

namespace Sys2Proof.Machine

/-! ## The op `CLS` -/

/-- R210 with the values of its thresholds. -/
theorem classify_eq_bands (v : Byte) :
    classify v =
      if 80 ≤ v.toNat ∧ v.toNat < 90 then .pad else if v.toNat < 128 then .zero else .one := rfl

/-- `CLS` needs no configuration and has no test of its own (R212, R278). -/
theorem admission_cls_of_no_fault {s : State} (hf : s.fault = 0#3) (v : Byte) :
    admission (.cls v) s = none := by
  simp [admission_eq, needsConfig, ownTest, hf]

/-- Settles O28: the only test is the fault, which refuses every op but `RST` (R38). -/
theorem clsReturnsTheCell : Obligations.ClsReturnsTheCell := by
  intro s v
  refine ⟨fun hf => (faultIsStickyUntilReset s hf).1 (.cls v) (by simp), fun hf => ?_⟩
  rw [exec, execCls, performed_admitted (admission_cls_of_no_fault hf v), complete_eq_report,
    classify_eq_bands]

/-! ## Where a cell is sampled -/

/-- The address in IMG of the sample point of cell `k` (R66, R222). -/
def State.sampleAddress (s : State) (k : Nat) : Nat :=
  (s.sampleOffset k).2 * s.w + (s.sampleOffset k).1

/-- The sample of a cell is the byte at its address, whatever image is captured. -/
theorem sampleCell_setImg {s : State} {k : Nat} (h : s.ConfigInv) (hc : s.cfgv = true)
    (hk : k < s.c) (m : Memory) :
    ({ s with img := m } : State).sampleCell k = some (m.read (s.sampleAddress k)) :=
  if_pos (sampleOffset_lt h hc hk)

/-- The pixels of an earlier row have smaller addresses. -/
theorem address_lt_of_row_lt {w x y y' : Nat} (hx : x < w) (hy : y < y') (x' : Nat) :
    y * w + x < y' * w + x' := by
  calc y * w + x
    _ < (y + 1) * w := by rw [Nat.succ_mul]; omega
    _ ≤ y' * w := Nat.mul_le_mul_right w hy
    _ ≤ y' * w + x' := Nat.le_add_right _ _

/-- Of two cell indices, the earlier is in an earlier row or before the other in its row (R96). -/
theorem row_lt_or_col_lt {j k : Nat} (cols : Nat) (h : j < k) :
    j / cols < k / cols ∨ (j / cols = k / cols ∧ j % cols < k % cols) := by
  rcases (Nat.div_le_div_right (c := cols) h.le).lt_or_eq with hrow | hrow
  · exact .inl hrow
  · refine .inr ⟨hrow, ?_⟩
    have hj := Nat.div_add_mod j cols
    have hk := Nat.div_add_mod k cols
    rw [hrow] at hj
    omega

/-- At a pitch of a pixel or more on both axes, the addresses rise with the cell index: a later row
is lower, and a later column of one row is further right (R145). -/
theorem sampleAddress_strictMonoOn {s : State} (h : s.ConfigInv) (hc : s.cfgv = true)
    (hw : s.cols ≤ s.w) (hh : s.rows ≤ s.h) : StrictMonoOn s.sampleAddress (Set.Iio s.c) := by
  intro j hj k _ hjk
  obtain ⟨hrows, hcols, -⟩ := h.1 hc
  have hinside : (s.sampleOffset j).1 < s.w := (sampleOffset_lt h hc hj).1
  simp only [State.sampleAddress, State.sampleOffset, State.gt, State.gridPos, State.samplePt,
    Nat.add_sub_cancel_left] at hinside ⊢
  rcases row_lt_or_col_lt s.cols hjk with hrow | ⟨hrow, hcol⟩
  · exact address_lt_of_row_lt hinside (centre_strictMono hrows hh hrow) _
  · rw [hrow]
    exact Nat.add_lt_add_left (centre_strictMono hcols hw hcol) _

/-! ## What painting writes -/

/-- Painting leaves every address alone at which no painted cell is sampled. -/
theorem read_paintFrom_of_ne (s : State) (r : Config.Render) {a : Nat} {frame : List Cell}
    (m : Memory) {k : Nat} (h : ∀ i < frame.length, a ≠ s.sampleAddress (k + i)) :
    (s.paintFrom r m k frame).read a = m.read a := by
  induction frame generalizing m k with
  | nil => rfl
  | cons x xs ih =>
    have hhead : a ≠ s.sampleAddress k := h 0 (by simp)
    have htail : ∀ i < xs.length, a ≠ s.sampleAddress (k + 1 + i) := fun i hi => by
      rw [Nat.add_right_comm]
      exact h (i + 1) (by simpa using hi)
    rw [State.paintFrom, ih _ htail]
    exact Memory.read_write_of_ne m _ hhead

/-- A painted cell reads back as its intensity where no two cells share an address: the cells
painted after it leave it alone. -/
theorem read_paintFrom_sampleAddress {s : State} (r : Config.Render) {frame : List Cell}
    {m : Memory} (hm : m.wf) {k i : Nat} {x : Cell} (hx : frame[i]? = some x)
    (hinj : Set.InjOn s.sampleAddress (Set.Iio (k + frame.length))) :
    (s.paintFrom r m k frame).read (s.sampleAddress (k + i)) = intensityOf r x := by
  induction frame generalizing m k i with
  | nil => simp at hx
  | cons y ys ih =>
    rw [List.length_cons] at hinj
    cases i with
    | zero =>
      obtain rfl : y = x := by simpa using hx
      have hlater : ∀ i < ys.length, s.sampleAddress k ≠ s.sampleAddress (k + 1 + i) :=
        fun i hi heq => by
          have : k = k + 1 + i := hinj (Set.mem_Iio.2 (by omega)) (Set.mem_Iio.2 (by omega)) heq
          omega
      rw [Nat.add_zero k, State.paintFrom, read_paintFrom_of_ne s r _ hlater]
      exact Memory.read_write_same hm _ _
    | succ i =>
      rw [show k + (i + 1) = k + 1 + i by omega]
      exact ih (Memory.wf_write hm _ _) (by simpa using hx)
        (by rwa [show k + 1 + ys.length = k + (ys.length + 1) by omega])

/-! ## The intensity contract -/

/-- Under the contract of R100 a rendered cell classifies as itself. -/
theorem classify_intensityOf {r : Config.Render} (h : renderOk r = true) (x : Cell) :
    classify (intensityOf r x) = x := by
  obtain ⟨⟨hzero, hone⟩, hpad⟩ :
      (classify r.vZero = .zero ∧ classify r.vOne = .one) ∧ classify r.vPad = .pad := by
    simpa [renderOk] using h
  cases x with
  | zero => exact hzero
  | one => exact hone
  | pad => exact hpad

/-- Settles O41: every cell is sampled at an address of its own, so its intensity is still there when
the whole string is painted. -/
theorem faithfulImageShowsTheFrame : Obligations.FaithfulImageShowsTheFrame := by
  intro s r background frame hconfig hc hrender hw hh hbackground hlength
  have hinj : Set.InjOn s.sampleAddress (Set.Iio (0 + frame.length)) := by
    rw [Nat.zero_add, hlength]
    exact (sampleAddress_strictMonoOn hconfig hc hw hh).injOn
  refine ⟨hlength, fun k (hk : k < s.c) => ?_⟩
  obtain ⟨x, hx⟩ : ∃ x, frame[k]? = some x := ⟨_, List.getElem?_eq_getElem (hlength ▸ hk)⟩
  have hread : (s.faithfulImage r background frame).read (s.sampleAddress k) = intensityOf r x := by
    simpa [State.faithfulImage] using read_paintFrom_sampleAddress r hbackground hx hinj
  rw [sampleCell_setImg hconfig hc hk, hread, hx, Option.map_some, classify_intensityOf hrender]

end Sys2Proof.Machine
end

section
/-! `DEC.FRAME` (spec/45_frame_decoder.md R222 to R235): where its cells are read, and what it does
with a frame whose checks hold and with one that fails a check. -/

namespace Sys2Proof.Machine

/-! ## Where a cell is read -/

/-- The offset of a sample point from the image's origin, the origin's own coordinates cancelled
(R142, 90_conflicts.md C4). -/
theorem sampleOffset_eq (s : State) (k : Nat) :
    s.sampleOffset k = ((2 * (k % s.cols) + 1) * s.w / (2 * s.cols),
      (2 * (k / s.cols) + 1) * s.h / (2 * s.rows)) := by
  simp only [State.sampleOffset, State.gt, State.gridPos, State.samplePt, Nat.add_sub_cancel_left]

/-- Settles O35: the offset is a pixel of the image by `sampleOffset_lt`, so the read is in range. -/
theorem everyCellReadsOnePixelInsideTheImage :
    Obligations.EveryCellReadsOnePixelInsideTheImage := by
  intro s k hconfig hc hk
  have hinside := sampleOffset_lt hconfig hc hk
  have hread : s.sampleCell k = some (s.img.read (s.sampleAddress k)) :=
    sampleCell_setImg hconfig hc hk s.img
  rw [State.sampleAddress] at hread
  rw [sampleOffset_eq] at hinside hread
  obtain ⟨hx, hy⟩ := hinside
  exact ⟨hx, hy, hread⟩

/-! ## The checks -/

/-- A frame passes exactly when checks A, B and C hold, and its value is the valid bits (R226 to
R229). -/
theorem checkFrame_eq_ok_iff {data chk : List Cell} {valid : List Bit} :
    checkFrame data chk = .ok valid ↔
      Cell.pad ∉ chk ∧ 0 < (validBits data).length ∧ (validBits data).length % 8 = 0 ∧
        digest (validBits data) = some (validBits chk) ∧ validBits data = valid := by
  rcases checkFrame_cases data chk with
    ⟨hpad, h⟩ | ⟨-, hnone, h⟩ | ⟨-, hbroken, h⟩ | ⟨-, -, -, hdigest, h⟩ |
    ⟨hpad, hsome, haligned, hdigest, h⟩
  · simp [h, hpad]
  · simp [h, hnone]
  · simp [h, hbroken]
  · simp [h, hdigest]
  · simp [h, hpad, Nat.pos_of_ne_zero hsome, haligned, hdigest]

section
variable {s : State} {cells : List Cell}

/-- A failed check leaves the frame undone: `RETRY`, the kind, and the sub-cause (R230). -/
theorem decodeCells_of_error {e : ErrorKind} {info : BitVec 8}
    (h : checkFrame (cells.take s.d) (cells.drop s.d) = .error (e, info)) :
    s.decodeCells cells = s.report 3#4 e.code info .none := by
  simp only [State.decodeCells, h]
  rfl

theorem decodeCells_of_ok {valid : List Bit}
    (h : checkFrame (cells.take s.d) (cells.drop s.d) = .ok valid) :
    s.decodeCells cells = s.acceptFrame valid (padCount (cells.take s.d)) := by
  simp only [State.decodeCells, h]

end

/-- Settles O37: `checkFrame` makes the tests in this order, and the first that fails decides. -/
theorem decFrameRejectsInOrder : Obligations.DecFrameRejectsInOrder := by
  intro s cells hf hc hd hshows chk valid rejects
  have rejects_of_error {e : ErrorKind} {info : BitVec 8}
      (h : checkFrame (cells.take s.d) chk = .error (e, info)) : rejects e.code info :=
    ⟨.none, by rw [exec_decFrame_of_shows hf hc hd hshows, decodeCells_of_error h]⟩
  have hvalid : validBits (cells.take s.d) = valid := rfl
  have hchk : validBits chk = chk.filterMap bitOfCell := rfl
  refine ⟨fun hA => rejects_of_error (e := .malformedFrame) ?_,
    fun hA hB => rejects_of_error (e := .malformedFrame) ?_,
    fun hA hB => rejects_of_error (e := .malformedFrame) ?_,
    fun hA hpos haligned hC => rejects_of_error (e := .checksumMismatch) ?_⟩ <;>
    rw [checkFrame, hvalid]
  · rw [if_pos hA]
  · rw [if_neg hA, if_pos hB]
  · have hpos : valid.length ≠ 0 := fun h => hB (by rw [h])
    rw [if_neg hA, if_neg hpos, if_pos hB]
  · rw [if_neg hA, if_neg hpos.ne', if_neg (not_not.2 haligned), hchk, if_pos hC]

/-! ## Acceptance -/

/-- A whole number of bytes packs to that many (R62). -/
theorem length_pack {b : List Bit} (h : b.length % 8 = 0) : (pack b).length = b.length / 8 :=
  (packAndUnpackAreInverse.1 b h).1

theorem padCount_pos_iff {data : List Cell} : 0 < padCount data ↔ Cell.pad ∈ data :=
  List.count_pos_iff

/-- While the stream is open, a frame closes it exactly when its data region has a `Pad` cell
(R36). -/
theorem decDoneFlag_of_open (data : List Cell) :
    decDoneFlag (padCount data) false = decide (Cell.pad ∈ data) := by
  simp only [decDoneFlag, Bool.or_false, gt_iff_lt, padCount_pos_iff]

/-- `TERMINAL` or `ADVANCE` (R229). -/
theorem acceptStatus_code_eq (data : List Cell) :
    (acceptStatus (padCount data)).code = if Cell.pad ∈ data then 2#4 else 1#4 := by
  simp only [acceptStatus, gt_iff_lt, padCount_pos_iff]
  split_ifs <;> rfl

theorem acceptStatus_code_eq_advance_iff {npad : Nat} :
    (acceptStatus npad).code = 1#4 ↔ npad = 0 := by
  rcases Nat.eq_zero_or_pos npad with rfl | hpos
  · decide
  · simp [acceptStatus, hpos, hpos.ne', Status.code]

section
variable {s : State}

/-- An accepted frame appends its packed bits to the bytes of OUT (R67, R229). -/
theorem output_acceptFrame (hout : s.out.wf) (valid : List Bit) (npad : Nat) :
    (s.acceptFrame valid npad).output = s.output ++ pack valid :=
  output_append hout (pack valid)

theorem acceptFrame_out_wf (hout : s.out.wf) (valid : List Bit) (npad : Nat) :
    (s.acceptFrame valid npad).out.wf :=
  Memory.wf_store hout _ _

/-- A frame whose checks hold is accepted (R229). -/
theorem exec_decFrame_accepts {cells : List Cell} {valid : List Bit} (hf : s.fault = 0#3)
    (hc : s.cfgv = true) (hd : s.decDone = false) (hshows : s.shows cells)
    (hok : checkFrame (cells.take s.d) (cells.drop s.d) = .ok valid) :
    exec .decFrame s = .next (s.acceptFrame valid (padCount (cells.take s.d))) := by
  rw [exec_decFrame_of_shows hf hc hd hshows, decodeCells_of_ok hok]

/-- While the stream is open, acceptance is the update of R229 and nothing else. -/
theorem acceptFrame_eq_report (hd : s.decDone = false) {valid : List Bit}
    (haligned : valid.length % 8 = 0) (data : List Cell) :
    s.acceptFrame valid (padCount data) =
      ({ s with
        out := s.out.store s.outLen (pack valid), outLen := s.outLen + valid.length / 8,
        decDone := decide (Cell.pad ∈ data) } : State).report
          (if Cell.pad ∈ data then 2#4 else 1#4) 0#3 0#8 (.appended (valid.length / 8)) := by
  rw [← length_pack haligned, ← decDoneFlag_of_open, ← acceptStatus_code_eq, ← hd]
  rfl

end

/-- Settles O36: the checks are those of `checkFrame_eq_ok_iff`, and OUT is the old one with the
packed bits stored from `OUT_LEN` on. -/
theorem decFrameAcceptsAValidFrame : Obligations.DecFrameAcceptsAValidFrame := by
  intro s cells hf hc hd hout hshows data chk valid hA hpos haligned hC
  have hok : checkFrame data chk = .ok valid := checkFrame_eq_ok_iff.2 ⟨hA, hpos, haligned, hC, rfl⟩
  refine ⟨s.acceptFrame valid (padCount data), exec_decFrame_accepts hf hc hd hshows hok,
    acceptFrame_eq_report hd haligned data, output_acceptFrame hout valid _, fun a ha => ?_⟩
  rw [← length_pack haligned] at ha
  exact Memory.read_store_of_outside s.out (pack valid) ha

/-! ## Frames of the encoder -/

section
variable {s : State} {p : List Byte} {frame : List Cell}

/-- An image of the frame of `p` is accepted as the bits of `p`, its `Pad` cells being the room that
`p` leaves (R196, R233). -/
theorem exec_decFrame_of_makeFrame (hf : s.fault = 0#3) (hc : s.cfgv = true)
    (hd : s.decDone = false) (hconfig : s.ConfigInv) (hp : 1 ≤ p.length) (hfits : p.length ≤ s.db)
    (hmade : makeFrame s.d p = some frame) (hshows : s.shows frame) :
    exec .decFrame s = .next (s.acceptFrame (unpack p) (s.d - 8 * p.length)) := by
  obtain ⟨-, -, -, -, -, haligned, -⟩ := hconfig.1 hc
  have hroom : 8 * p.length ≤ s.d := by
    have : s.db = s.d / 8 := rfl
    omega
  obtain ⟨-, hpads, -, -, hchk, -, hvalid, hdigest⟩ :=
    encodedFrameFacts s.d p frame haligned hp hroom hmade
  have hok : checkFrame (frame.take s.d) (frame.drop s.d) = .ok (unpack p) := by
    refine checkFrame_eq_ok_iff.2 ⟨hchk, ?_, ?_, hdigest, hvalid⟩ <;>
      rw [hvalid, length_unpack] <;> omega
  rw [← hpads]
  exact exec_decFrame_accepts hf hc hd hshows hok

end

/-- Settles O38: the frame's `Pad` cells are `DB − len(p)` bytes of room, and packing the bits of `p`
gives `p` back. -/
theorem frameRoundTrip : Obligations.FrameRoundTrip := by
  intro s p frame hf hd hc hconfig hout hp hfits hmade hshows
  obtain ⟨-, -, -, -, -, haligned, -⟩ := hconfig.1 hc
  have hshort : 0 < s.d - 8 * p.length ↔ p.length < s.d / 8 := by omega
  refine ⟨_, exec_decFrame_of_makeFrame hf hc hd hconfig hp hfits hmade hshows, ?_, ?_, ?_, ?_⟩
  · rw [output_acceptFrame hout, pack_unpack]
  · rw [State.acceptFrame_result, pack_unpack]
  · simp only [State.acceptFrame_decDone, decDoneFlag, hd, Bool.or_false, decide_eq_true_eq,
      gt_iff_lt, hshort]
  · simp only [State.acceptFrame_st, acceptStatus, gt_iff_lt, hshort]
    split_ifs <;> rfl

/-! ## Repeats and the end of the stream -/

/-- What a `DEC.FRAME` that answers `ADVANCE` found: an open stream, and a frame with no `Pad` cell in
its data region whose checks hold. -/
theorem exec_decFrame_advance {s t : State} (h : exec .decFrame s = .next t) (hst : t.st = 1#4) :
    s.fault = 0#3 ∧ s.cfgv = true ∧ s.decDone = false ∧ ∃ cells valid, s.shows cells ∧
      checkFrame (cells.take s.d) (cells.drop s.d) = .ok valid ∧ padCount (cells.take s.d) = 0 ∧
      t = s.acceptFrame valid (padCount (cells.take s.d)) := by
  rcases execDecFrame_cases h with ⟨why, rfl⟩ | ⟨hf, hc, hd, cells, hsampled, rfl⟩
  · simp at hst
  · rcases decodeCells_cases s cells with ⟨e, info, -, heq⟩ | ⟨hok, heq⟩
    · rw [heq] at hst
      simp [Severity.status, Status.code] at hst
    · rw [heq, State.acceptFrame_st] at hst
      exact ⟨hf, hc, hd, cells, _, shows_of_sampled hsampled, hok,
        acceptStatus_code_eq_advance_iff.1 hst, heq⟩

/-- Settles O39: acceptance writes nothing that the checks of a `DEC.FRAME` read, and without a `Pad`
cell in the data region the stream stays open. -/
theorem repeatedCaptureAppendsTwice : Obligations.RepeatedCaptureAppendsTwice := by
  intro s t hout h hst
  obtain ⟨hf, hc, hd, cells, valid, hshows, hok, hpads, rfl⟩ := exec_decFrame_advance h hst
  have hopen : (s.acceptFrame valid (padCount (cells.take s.d))).decDone = false := by
    simp [hpads, decDoneFlag, hd]
  have hshowsAgain : (s.acceptFrame valid (padCount (cells.take s.d))).shows cells := hshows
  obtain ⟨-, hpos, haligned, -, hvalid⟩ := checkFrame_eq_ok_iff.1 hok
  rw [hvalid] at hpos haligned
  refine ⟨_, pack valid, output_acceptFrame hout valid _, length_pack_pos (by omega),
    exec_decFrame_accepts hf hc hopen hshowsAgain hok, ?_, ?_⟩
  · simp [hpads, acceptStatus, Status.code]
  · rw [output_acceptFrame (acceptFrame_out_wf hout valid _), output_acceptFrame hout]

/-- Settles O49: the one row of `Writes` that appends bytes needs an open stream. -/
theorem nothingIsAppendedAfterTheTerminalFrame :
    Obligations.NothingIsAppendedAfterTheTerminalFrame := by
  intro i s t hi he hclosed
  obtain ⟨u, st, e, info, r, hw, rfl⟩ := exec_writes_of_ne_rst hi he
  cases hw with
  | nothing | configFault | config | payload | drainedFault | frame => exact ⟨hclosed, rfl, rfl⟩
  | output _ _ _ hopen => simp [hclosed] at hopen

end Sys2Proof.Machine
end

section
/-! A payload that `DB` divides, over a channel that shows every frame (spec/46_sync_protocol.md R259,
spec/45_frame_decoder.md R235, R315): every frame is full, so each is accepted with `ADVANCE`, and when
the payload is drained `FB` keeps its last frame, which is accepted again and again. One invariant for
each side of the transfer, both in the number of iterations. -/

namespace Sys2Proof.Machine

/-! ## A payload cut into full frames -/

/-- The payload fills `K` frames, at least one, and leaves no rest. -/
structure State.FullFrames (s : State) (K : Nat) : Prop where
  room : 1 ≤ s.db
  count : 1 ≤ K
  plen : s.plen = K * s.db

/-- The payload bytes of frame `j`. -/
def State.frameBytes (s : State) (j : Nat) : List Byte := s.pay.slice (j * s.db) s.db

/-- The frame that `FB` holds after `m` times `ENC.NEXT`, of `K` frames: the last one stays. -/
def shownFrame (K m : Nat) : Nat := min m K - 1

/-- What `n` accepted frames append: the payload from its start, and once all of it is there its last
frame again for each further one. -/
def State.delivered (s : State) (K n : Nat) : List Byte :=
  s.payload.take (n * s.db) ++
    (List.replicate (n - K) (s.payload.drop (s.plen - s.db))).flatten

theorem length_frameBytes (s : State) (j : Nat) : (s.frameBytes j).length = s.db :=
  Memory.slice_length _ _ _

theorem length_payload (s : State) : s.payload.length = s.plen := Memory.slice_length _ _ _

theorem length_output (s : State) : s.output.length = s.outLen := Memory.slice_length _ _ _

/-- The payload is cut at any place. -/
theorem payload_eq_append (s : State) {a b : Nat} (h : a + b = s.plen) :
    s.payload = s.pay.slice 0 a ++ s.pay.slice a b := by
  rw [State.payload, ← h, Memory.slice_add, Nat.zero_add]

theorem payload_take {s : State} {a : Nat} (h : a ≤ s.plen) :
    s.payload.take a = s.pay.slice 0 a := by
  rw [payload_eq_append s (Nat.add_sub_cancel' h), List.take_left' (Memory.slice_length _ _ _)]

theorem payload_drop {s : State} {a : Nat} (h : a ≤ s.plen) :
    s.payload.drop a = s.pay.slice a (s.plen - a) := by
  rw [payload_eq_append s (Nat.add_sub_cancel' h), List.drop_left' (Memory.slice_length _ _ _)]

theorem delivered_zero (s : State) (K : Nat) : s.delivered K 0 = [] := by
  simp [State.delivered]

section
variable {s : State} {K n : Nat}

theorem State.FullFrames.mul_db_le (h : s.FullFrames K) (hn : n ≤ K) : n * s.db ≤ s.plen := by
  rw [h.plen]
  exact Nat.mul_le_mul_right s.db hn

/-- Up to the last frame, what was delivered is the payload from its start. -/
theorem State.FullFrames.delivered_of_le (h : s.FullFrames K) (hn : n ≤ K) :
    s.delivered K n = s.pay.slice 0 (n * s.db) := by
  rw [State.delivered, Nat.sub_eq_zero_of_le hn, payload_take (h.mul_db_le hn)]
  simp

/-- From the last frame on, it is the payload and repeats of the last frame. -/
theorem State.FullFrames.delivered_of_ge (h : s.FullFrames K) (hn : K ≤ n) :
    s.delivered K n = s.payload ++ (List.replicate (n - K) (s.frameBytes (K - 1))).flatten := by
  have hall : s.plen ≤ n * s.db := by
    rw [h.plen]
    exact Nat.mul_le_mul_right s.db hn
  have hone : s.db ≤ s.plen := by simpa using h.mul_db_le h.count
  have hlast : s.plen - s.db = (K - 1) * s.db := by rw [h.plen, Nat.sub_mul, Nat.one_mul]
  rw [State.delivered, List.take_of_length_le (by rwa [length_payload]),
    payload_drop (Nat.sub_le _ _), Nat.sub_sub_self hone, hlast, State.frameBytes]

/-- One more accepted frame appends the bytes of the frame shown. -/
theorem State.FullFrames.delivered_succ (h : s.FullFrames K) (n : Nat) :
    s.delivered K (n + 1) = s.delivered K n ++ s.frameBytes (shownFrame K (n + 1)) := by
  rcases Nat.lt_or_ge n K with hn | hn
  · have hshown : shownFrame K (n + 1) = n := by rw [shownFrame]; omega
    rw [h.delivered_of_le hn, h.delivered_of_le hn.le, hshown, State.frameBytes, Nat.succ_mul,
      Memory.slice_add, Nat.zero_add]
  · have hshown : shownFrame K (n + 1) = K - 1 := by rw [shownFrame]; omega
    rw [h.delivered_of_ge hn, h.delivered_of_ge (by omega), hshown, Nat.succ_sub hn,
      List.replicate_succ', List.flatten_append, List.flatten_singleton, List.append_assoc]

theorem State.FullFrames.length_delivered (h : s.FullFrames K) (n : Nat) :
    (s.delivered K n).length = n * s.db := by
  induction n with
  | zero => rw [delivered_zero, Nat.zero_mul, List.length_nil]
  | succ n ih =>
    rw [h.delivered_succ, List.length_append, ih, length_frameBytes, Nat.succ_mul]

end

/-- `DB` bytes are all the data cells of a configured block (R28, R123). -/
theorem eight_mul_db {s : State} (h : s.ConfigInv) (hc : s.cfgv = true) : 8 * s.db = s.d := by
  obtain ⟨-, -, -, -, -, haligned, -⟩ := h.1 hc
  show 8 * (s.d / 8) = s.d
  omega

/-! ## The encoder side -/

/-- `e` is what `m` times `ENC.NEXT` makes of `enc`, of whose frames there are `K`: one frame each
while there are any, then a fatal error (R195) and refusals, which leave `FB` alone. -/
structure State.Emitted (enc : State) (K m : Nat) (e : State) : Prop where
  d : e.d = enc.d
  pay : e.pay = enc.pay
  plen : e.plen = enc.plen
  cfgv : e.cfgv = true
  plv : e.plv = true
  offset : e.encOff = min m K * enc.db
  fault : e.fault = 0#3 ↔ m ≤ K
  shown : 1 ≤ m → ∃ frame, e.fb = some frame ∧
    makeFrame enc.d (enc.frameBytes (shownFrame K m)) = some frame

theorem State.emitted_zero {enc : State} (K : Nat) (hf : enc.fault = 0#3) (hc : enc.cfgv = true)
    (hp : enc.plv = true) (hoff : enc.encOff = 0) : enc.Emitted K 0 enc where
  d := rfl
  pay := rfl
  plen := rfl
  cfgv := hc
  plv := hp
  offset := by rw [hoff, Nat.zero_min, Nat.zero_mul]
  fault := by simp [hf]
  shown := nofun

section
variable {enc e : State} {K m : Nat}

/-- While frames are left, `ENC.NEXT` emits the next one. -/
theorem State.Emitted.succ_of_lt (h : enc.Emitted K m e) (hfull : enc.FullFrames K) (hm : m < K) :
    ∃ e', exec .encNext e = .next e' ∧ enc.Emitted K (m + 1) e' := by
  have hdb : e.db = enc.db := congrArg (· / 8) h.d
  have hoff : e.encOff = m * enc.db := by rw [h.offset, Nat.min_eq_left hm.le]
  have hroom : m * enc.db + enc.db ≤ e.plen := by
    rw [h.plen, ← Nat.succ_mul]
    exact hfull.mul_db_le hm
  have hcount : e.nextCount = enc.db := by
    rw [State.nextCount, hdb]
    omega
  have hpos := hfull.room
  obtain ⟨frame, hmade, hexec⟩ := exec_encNext_emits (h.fault.2 hm.le) h.cfgv h.plv
    (by omega) (hdb ▸ hpos)
  rw [h.d, h.pay, hoff, hcount] at hmade
  have hmin : min (m + 1) K = m + 1 := Nat.min_eq_left hm
  refine ⟨_, hexec, h.d, h.pay, h.plen, h.cfgv, h.plv, ?_, ?_, fun _ => ⟨frame, rfl, ?_⟩⟩
  · show e.encOff + e.nextCount = _
    rw [hoff, hcount, hmin, Nat.succ_mul]
  · exact iff_of_true (h.fault.2 hm.le) hm
  · rw [shownFrame, hmin]
    exact hmade

/-- With every frame emitted, `ENC.NEXT` is fatal the first time and refused from then on; either
changes nothing but `FAULT` and the result registers (R195, R38). -/
theorem State.Emitted.succ_of_ge (h : enc.Emitted K m e) (hfull : enc.FullFrames K) (hm : K ≤ m) :
    ∃ e', exec .encNext e = .next e' ∧ enc.Emitted K (m + 1) e' := by
  have hstays : shownFrame K (m + 1) = shownFrame K m := by
    rw [shownFrame, shownFrame, Nat.min_eq_right hm, Nat.min_eq_right (by omega)]
  have hoff : e.encOff = min (m + 1) K * enc.db := by
    rw [h.offset, Nat.min_eq_right hm, Nat.min_eq_right (by omega)]
  have hshown : 1 ≤ m + 1 → ∃ frame, e.fb = some frame ∧
      makeFrame enc.d (enc.frameBytes (shownFrame K (m + 1))) = some frame := fun _ => by
    rw [hstays]
    exact h.shown (hfull.count.trans hm)
  rcases hm.eq_or_lt with rfl | hlt
  · have hend : e.encOff = e.plen := by rw [h.offset, Nat.min_self, h.plen, hfull.plen]
    have hf : e.fault = 0#3 := h.fault.2 le_rfl
    refine ⟨_, exec_encNext_of_drained hf h.cfgv h.plv hend,
      h.d, h.pay, h.plen, h.cfgv, h.plv, hoff, ?_, hshown⟩
    simp [faultAfter, hf, ErrorKind.code]
  · have hf : e.fault ≠ 0#3 := fun hzero => absurd (h.fault.1 hzero) (by omega)
    obtain ⟨hrefused, -⟩ := faultIsStickyUntilReset e hf
    obtain ⟨r, hexec⟩ := hrefused .encNext (by simp)
    exact ⟨_, hexec, h.d, h.pay, h.plen, h.cfgv, h.plv, hoff, iff_of_false hf (by omega), hshown⟩

theorem State.Emitted.succ (h : enc.Emitted K m e) (hfull : enc.FullFrames K) :
    ∃ e', exec .encNext e = .next e' ∧ enc.Emitted K (m + 1) e' :=
  (Nat.lt_or_ge m K).elim (h.succ_of_lt hfull) (h.succ_of_ge hfull)

end

/-! ## The decoder side -/

/-- `s` samples every image as `s'` does and cuts the string at the same place. -/
structure State.SamplesLike (s s' : State) : Prop where
  c : s.c = s'.c
  d : s.d = s'.d
  w : s.w = s'.w
  h : s.h = s'.h
  offset : ∀ k, s.sampleOffset k = s'.sampleOffset k

/-- The captured image is not part of it. -/
theorem State.SamplesLike.capture {s s' : State} (h : s.SamplesLike s') (m m' : Memory) :
    ({ s with img := m } : State).SamplesLike { s' with img := m' } :=
  ⟨h.c, h.d, h.w, h.h, h.offset⟩

/-- One image shows the same strings to both. -/
theorem State.SamplesLike.shows {s s' : State} (h : s.SamplesLike s') (himg : s.img = s'.img)
    {cells : List Cell} (hshows : s'.shows cells) : s.shows cells := by
  have hcell (k : Nat) : s.sampleCell k = s'.sampleCell k := by
    simp only [State.sampleCell, State.readImg, h.offset, h.w, h.h, himg]
  simpa only [State.shows, hcell, h.c] using hshows

/-- `d` is `dec` after it has accepted frames that carry `bytes`, none of them terminal. -/
structure State.Received (dec : State) (bytes : List Byte) (d : State) : Prop where
  samples : d.SamplesLike dec
  config : d.ConfigInv
  cfgv : d.cfgv = true
  fault : d.fault = 0#3
  notDone : d.decDone = false
  out : d.out.wf
  output : d.output = bytes

theorem State.Received.capture {dec d : State} {bytes : List Byte} (h : dec.Received bytes d)
    (m : Memory) : dec.Received bytes { d with img := m } :=
  ⟨h.samples.capture m dec.img, h.config, h.cfgv, h.fault, h.notDone, h.out, h.output⟩

/-- The frame of a full slice is accepted with `ADVANCE`, and its bytes are appended (R233). -/
theorem State.Received.accept_full {dec d : State} {bytes p : List Byte} {frame : List Cell}
    (h : dec.Received bytes d) (hroom : 1 ≤ dec.db) (hp : p.length = dec.db)
    (hmade : makeFrame dec.d p = some frame) (hshows : d.shows frame) :
    ∃ d', exec .decFrame d = .next d' ∧ d'.st = 1#4 ∧ dec.Received (bytes ++ p) d' := by
  have hd : d.d = dec.d := h.samples.d
  have hdb : d.db = dec.db := congrArg (· / 8) hd
  have hnopad : d.d - 8 * p.length = 0 := by
    rw [hp, ← hdb, eight_mul_db h.config h.cfgv, Nat.sub_self]
  have hexec : exec .decFrame d = .next (d.acceptFrame (unpack p) 0) := by
    rw [← hnopad]
    exact exec_decFrame_of_makeFrame h.fault h.cfgv h.notDone h.config (hp ▸ hroom)
      (hp.trans hdb.symm).le (by rwa [hd]) hshows
  have hsamples : (d.acceptFrame (unpack p) 0).SamplesLike dec :=
    ⟨h.samples.c, hd, h.samples.w, h.samples.h, h.samples.offset⟩
  have hnotDone : (d.acceptFrame (unpack p) 0).decDone = false := by
    simp [decDoneFlag, h.notDone]
  have houtput : (d.acceptFrame (unpack p) 0).output = bytes ++ p := by
    rw [output_acceptFrame h.out, pack_unpack, h.output]
  exact ⟨_, hexec, rfl, hsamples, h.config, h.cfgv, h.fault, hnotDone,
    acceptFrame_out_wf h.out _ _, houtput⟩

/-! ## The loop -/

/-- After `n` iterations: the encoder has emitted once at the start and once for each, and the decoder
has appended the bytes of `n` frames. -/
structure Transfer.Repeating (enc dec : State) (K n : Nat) (t : Transfer) : Prop where
  phase : t.phase = .running
  emitted : enc.Emitted K (n + 1) t.enc
  received : dec.Received (enc.delivered K n) t.dec

section
variable {enc dec : State} {K : Nat} {o : Outside}

/-- An iteration over a channel that shows the frame in `FB`, with no stop signal. -/
theorem Transfer.Repeating.step {n : Nat} {t : Transfer} (h : t.Repeating enc dec K n)
    (hfull : enc.FullFrames K) (hd : dec.d = enc.d)
    (hcapture : o.stopsBeforeCapture t.iter = false)
    (hadvance : o.stopsBeforeAdvance t.iter = false)
    (hshows : ∀ p frame, p.length = enc.db → makeFrame enc.d p = some frame →
      ({ dec with img := o.channel t.iter (some frame) } : State).shows frame) :
    ∃ u, t.step o = .next u ∧ u.Repeating enc dec K (n + 1) := by
  obtain ⟨frame, hfb, hmade⟩ := h.emitted.shown (Nat.le_add_left 1 n)
  have hlength := length_frameBytes enc (shownFrame K (n + 1))
  have hdb : dec.db = enc.db := congrArg (· / 8) hd
  have hshown := (h.received.samples.capture _ _).shows rfl (hshows _ _ hlength hmade)
  obtain ⟨d', hdec, hst, hreceived⟩ := (h.received.capture _).accept_full (hdb ▸ hfull.room)
    (hlength.trans hdb.symm) (by rwa [hd]) hshown
  obtain ⟨e', hnext, hemitted⟩ := h.emitted.succ hfull
  have hstep : t.step o =
      .next { t with enc := e', dec := d', iter := t.iter + 1, retries := 0 } := by
    rw [Transfer.step_acts h.phase hcapture (by rwa [hfb]), Transfer.act_advance hst hadvance hnext]
  exact ⟨_, hstep, h.phase, hemitted, by rwa [hfull.delivered_succ]⟩

/-- The loop goes on for any number of iterations. -/
theorem Transfer.Repeating.run {t0 : Transfer} (h0 : t0.Repeating enc dec K 0)
    (hfull : enc.FullFrames K) (hd : dec.d = enc.d)
    (hcapture : ∀ i, o.stopsBeforeCapture i = false)
    (hadvance : ∀ i, o.stopsBeforeAdvance i = false)
    (hshows : ∀ i p frame, p.length = enc.db → makeFrame enc.d p = some frame →
      ({ dec with img := o.channel i (some frame) } : State).shows frame) (n : Nat) :
    ∃ t, Transfer.run o n t0 = .next t ∧ t.Repeating enc dec K n := by
  induction n with
  | zero => exact ⟨t0, rfl, h0⟩
  | succ n ih =>
    obtain ⟨t, hrun, ht⟩ := ih
    obtain ⟨u, hstep, hu⟩ :=
      ht.step hfull hd (hcapture t.iter) (hadvance t.iter) (hshows t.iter)
    exact ⟨u, Transfer.run_snoc hrun hstep, hu⟩

end

/-! ## The faithful channel -/

/-- Two configured blocks with the same grid have frames of the same capacity (R28). -/
theorem d_eq_of_same_grid {s s' : State} (h : s.ConfigInv) (h' : s'.ConfigInv)
    (hc : s.cfgv = true) (hc' : s'.cfgv = true) (hrows : s.rows = s'.rows)
    (hcols : s.cols = s'.cols) : s.d = s'.d := by
  obtain ⟨-, -, hcells, -, hd, -⟩ := h.1 hc
  obtain ⟨-, -, hcells', -, hd', -⟩ := h'.1 hc'
  rw [hd, hd', hcells, hcells', hrows, hcols]

/-- The frame of a full slice has as many cells as the grid (R27, R192). -/
theorem length_of_full_frame {s : State} {p : List Byte} {frame : List Cell} (h : s.ConfigInv)
    (hc : s.cfgv = true) (hp : p.length = s.db) (hmade : makeFrame s.d p = some frame) :
    frame.length = s.c := by
  have hroom := db_pos h hc
  obtain ⟨-, -, -, hcells, hd, haligned, -⟩ := h.1 hc
  have hfits : 8 * p.length ≤ s.d := by rw [hp, eight_mul_db h hc]
  obtain ⟨hlength, -⟩ := encodedFrameFacts s.d p frame haligned (hp ▸ hroom) hfits hmade
  omega

/-- A loaded payload that `DB` divides is cut into full frames. -/
theorem fullFrames_of_mod_eq_zero {s : State} (hroom : 1 ≤ s.db) (hpos : 0 < s.plen)
    (hdivides : s.plen % s.db = 0) : s.FullFrames (s.plen / s.db) := by
  have hdvd : s.db ∣ s.plen := Nat.dvd_of_mod_eq_zero hdivides
  exact ⟨hroom, Nat.div_pos (Nat.le_of_dvd hpos hdvd) hroom, (Nat.div_mul_cancel hdvd).symm⟩

/-- A fresh decoder has appended nothing. -/
theorem State.Inv.received_nil {s : State} (h : s.Inv) (hc : s.cfgv = true) (hf : s.fault = 0#3)
    (hlen : s.outLen = 0) (hopen : s.decDone = false) : s.Received [] s := by
  obtain ⟨-, hout, -⟩ := h.memory
  have hempty : s.output = [] := List.length_eq_zero_iff.1 (by rw [length_output, hlen])
  exact ⟨⟨rfl, rfl, rfl, rfl, fun _ => rfl⟩, h.config, hc, hf, hopen, hout, hempty⟩

/-- The faithful channel shows every full frame. -/
theorem faithful_shows_full_frame {s : State} {r : Config.Render} {background : Nat → Memory}
    {retryMax : Option Nat} (h : s.ConfigInv) (hc : s.cfgv = true) (hrender : renderOk r = true)
    (hw : s.cols ≤ s.w) (hh : s.rows ≤ s.h) (hbackground : ∀ i, (background i).wf) (i : Nat)
    {p : List Byte} {frame : List Cell} (hp : p.length = s.db)
    (hmade : makeFrame s.d p = some frame) :
    ({ s with img := (faithful s r background retryMax).channel i (some frame) } :
      State).shows frame :=
  faithfulImageShowsTheFrame s r (background i) frame h hc hrender hw hh (hbackground i)
    (length_of_full_frame h hc hp hmade)

/-- Settles O59: the invariant holds after the first `ENC.NEXT`, every iteration keeps it, and the
bytes it says were delivered are those of the statement. -/
theorem fullFramesNeverEndTheStream : Obligations.FullFramesNeverEndTheStream := by
  intro enc dec r background retryMax henc hdec hfe hfd hp hoff hcd hlen hopen hrows hcols hw hh
    hrender hbackground hpos hdivides
  obtain ⟨-, hconfigured, -⟩ := henc.encoder
  have hce : enc.cfgv = true := hconfigured hp
  have hd : dec.d = enc.d := d_eq_of_same_grid hdec.config henc.config hcd hce hrows hcols
  have hdb : dec.db = enc.db := congrArg (· / 8) hd
  have hfull := fullFrames_of_mod_eq_zero (db_pos henc.config hce) hpos hdivides
  obtain ⟨e, hstart, hemitted⟩ := (State.emitted_zero _ hfe hce hp hoff).succ hfull
  have hinit : Transfer.Repeating enc dec (enc.plen / enc.db) 0
      { enc := e, dec := dec, iter := 1, retries := 0, phase := .running } :=
    ⟨rfl, hemitted, delivered_zero enc _ ▸ hdec.received_nil hcd hfd hlen hopen⟩
  refine ⟨_, by rw [Transfer.start, hstart], fun n => ?_⟩
  obtain ⟨t, hrun, hphase, -, hgot⟩ := hinit.run (o := faithful dec r background retryMax) hfull hd
    (fun _ => rfl) (fun _ => rfl) (fun i p frame hfills hmade =>
      faithful_shows_full_frame hdec.config hcd hrender hw hh hbackground i (hfills.trans hdb.symm)
        (by rwa [hd])) n
  refine ⟨t, hrun, hphase, hgot.notDone, ?_, hgot.output⟩
  rw [← length_output, hgot.output, hfull.length_delivered]

end Sys2Proof.Machine
end

section
/-! One iteration of a transfer (spec/46_sync_protocol.md R251, R254 to R260): the four outcomes of a
`DEC.FRAME`, what the hosts do on each, and so what an iteration that ends the loop says. -/

namespace Sys2Proof.Machine

/-! ## The outcomes of a `DEC.FRAME` -/

theorem acceptStatus_code_eq_terminal_iff {npad : Nat} :
    (acceptStatus npad).code = 2#4 ↔ 0 < npad := by
  by_cases hpos : 0 < npad <;> simp [acceptStatus, hpos, Status.code]

/-- A `DEC.FRAME` that answers `ADVANCE` appends a byte at least (R229). -/
theorem outLen_lt_of_advance {s t : State} (h : exec .decFrame s = .next t) (hst : t.st = 1#4) :
    s.outLen < t.outLen := by
  obtain ⟨-, -, -, cells, valid, -, hok, -, rfl⟩ := exec_decFrame_advance h hst
  obtain ⟨-, hpos, haligned, -, rfl⟩ := checkFrame_eq_ok_iff.1 hok
  have hbyte : 1 ≤ (pack (validBits (cells.take s.d))).length := length_pack_pos (by omega)
  rw [State.acceptFrame_outLen]
  omega

/-- Everything a `DEC.FRAME` can answer, as the outcome that its host sees (R229, R230, R278): it is
refused, it rejects the frame, or it accepts it, and a terminal frame closes the stream. -/
theorem exec_decFrame_outcome {s t : State} (h : exec .decFrame s = .next t) :
    t.st = 6#4 ∨ t.st = 3#4 ∨ t.st = 1#4 ∨ t.st = 2#4 ∧ t.decDone = true := by
  rcases execDecFrame_cases h with ⟨why, rfl⟩ | ⟨-, -, -, cells, -, rfl⟩
  · exact .inl rfl
  · rcases decodeCells_cases s cells with ⟨e, info, -, heq⟩ | ⟨-, heq⟩ <;> rw [heq]
    · exact .inr (.inl rfl)
    · rcases Nat.eq_zero_or_pos (padCount (cells.take s.d)) with hfull | hpads
      · exact .inr (.inr (.inl (acceptStatus_code_eq_advance_iff.2 hfull)))
      · refine .inr (.inr (.inr ⟨acceptStatus_code_eq_terminal_iff.2 hpads, ?_⟩))
        rw [State.acceptFrame_decDone, decDoneFlag, decide_eq_true hpads, Bool.true_or]

/-! ## The retry limit (R257) -/

/-- The loop goes on below the limit, and stalls where it is reached. -/
theorem retryPhase_cases (retryMax : Option Nat) (retries : Nat) :
    (retryPhase retryMax retries = .running ∧ ∀ m, retryMax = some m → retries < m) ∨
    (retryPhase retryMax retries = .stalled ∧ ∃ m, retryMax = some m ∧ m ≤ retries) := by
  cases retryMax with
  | none => exact .inl ⟨rfl, nofun⟩
  | some m =>
    rcases Nat.lt_or_ge retries m with hbelow | hreached
    · exact .inl ⟨if_neg (by omega), by simpa using hbelow⟩
    · exact .inr ⟨if_pos hreached, m, rfl, hreached⟩

/-! ## An iteration -/

section
variable {o : Outside} {t u : Transfer}

theorem Transfer.step_of_not_running (hp : t.phase ≠ .running) : t.step o = .next t := by
  cases hphase : t.phase with
  | running => exact absurd hphase hp
  | finished | stalled | stopped | failed => simp only [Transfer.step, hphase]

theorem Transfer.step_of_stop (hp : t.phase = .running)
    (hstop : o.stopsBeforeCapture t.iter = true) :
    t.step o = .next { t with phase := .stopped } := by
  simp only [Transfer.step, hp, hstop, if_true]

/-- The `DEC.FRAME` was refused. -/
theorem Transfer.act_refused {d : State} (hs : d.st = 6#4) :
    t.act o d = .next { t with dec := d, iter := t.iter + 1, phase := .failed } := by
  simp [Transfer.act, hs, show hostMove 6#4 = .giveUp by decide]

/-- A decoder with a fault refuses its `DEC.FRAME`, keeps the fault, and the host gives up (R38). -/
theorem Transfer.step_of_decoder_fault (hp : t.phase = .running)
    (hcapture : o.stopsBeforeCapture t.iter = false) (hf : t.dec.fault ≠ 0#3) :
    ∃ d, t.step o = .next { t with dec := d, iter := t.iter + 1, phase := .failed } ∧
      d.fault = t.dec.fault := by
  obtain ⟨hrefused, -⟩ :=
    faultIsStickyUntilReset { t.dec with img := o.channel t.iter t.enc.fb } hf
  obtain ⟨r, hexec⟩ := hrefused .decFrame (by simp)
  exact ⟨_, (Transfer.step_acts hp hcapture hexec).trans (Transfer.act_refused rfl), rfl⟩

/-- Everything an iteration that makes its capture can do, by what the decoder answered, with what
each answer says of the decoder. -/
inductive Transfer.Iterates (o : Outside) (t : Transfer) : Transfer → Prop
  /-- `ADVANCE`, and the encoder is advanced. -/
  | advanced (d e : State) (st : d.st = 1#4) (appended : t.dec.outLen < d.outLen)
      (next : exec .encNext t.enc = .next e) :
      Iterates o t { t with enc := e, dec := d, iter := t.iter + 1, retries := 0 }
  /-- `ADVANCE`, and the stop signal comes before the advance signal. -/
  | stopped (d : State) (st : d.st = 1#4) (appended : t.dec.outLen < d.outLen)
      (stop : o.stopsBeforeAdvance t.iter = true) :
      Iterates o t { t with dec := d, iter := t.iter + 1, phase := .stopped }
  /-- `TERMINAL`. -/
  | finished (d : State) (st : d.st = 2#4) (closed : d.decDone = true) :
      Iterates o t { t with dec := d, iter := t.iter + 1, phase := .finished }
  /-- `RETRY`. -/
  | retried (d : State) (st : d.st = 3#4) :
      Iterates o t { t with dec := d, iter := t.iter + 1, retries := t.retries + 1,
                            phase := retryPhase o.retryMax (t.retries + 1) }
  /-- `REFUSED`. -/
  | refused (d : State) (st : d.st = 6#4) :
      Iterates o t { t with dec := d, iter := t.iter + 1, phase := .failed }

theorem Transfer.iterates_of_step (hp : t.phase = .running)
    (hcapture : o.stopsBeforeCapture t.iter = false) (h : t.step o = .next u) :
    t.Iterates o u := by
  rcases Transfer.step_cases hp h with ⟨hstop, -⟩ | ⟨-, d, hdec, hact⟩
  · rw [hcapture] at hstop
    cases hstop
  have houtcome := exec_decFrame_outcome hdec
  have hgrew (hst : d.st = 1#4) : t.dec.outLen < d.outLen := by
    simpa using outLen_lt_of_advance hdec hst
  rcases Transfer.act_cases hact with ⟨hst, hstop, rfl⟩ | ⟨hst, -, e, hnext, rfl⟩ | ⟨hst, rfl⟩ |
    ⟨hst, rfl⟩ | ⟨h1, h2, h3, rfl⟩
  · exact .stopped d hst (hgrew hst) hstop
  · exact .advanced d e hst (hgrew hst) hnext
  · exact .finished d hst (by simpa [hst] using houtcome)
  · exact .retried d hst
  · exact .refused d (by simpa [h1, h2, h3] using houtcome)

end

/-- Settles O56: of all that an iteration can do, only the row of the advance signal writes the
state of the encoder side. -/
theorem advanceOnlyAfterValidation : Obligations.AdvanceOnlyAfterValidation := by
  intro o t u h hchanged
  by_cases hp : t.phase = .running
  · cases hcapture : o.stopsBeforeCapture t.iter with
    | true =>
      obtain rfl : { t with phase := .stopped } = u := by
        simpa [Transfer.step_of_stop hp hcapture] using h
      exact absurd rfl hchanged
    | false =>
      cases Transfer.iterates_of_step hp hcapture h with
      | advanced d e hst hgrew hnext => exact ⟨hp, hst, hgrew, hnext⟩
      | stopped | finished | retried | refused => exact absurd rfl hchanged
  · obtain rfl : t = u := by simpa [Transfer.step_of_not_running hp] using h
    exact absurd rfl hchanged

/-- Settles O57: the first three clauses are the equations of the iteration that makes no capture and
of the refused one; the last reads each row of `Transfer.Iterates` at the phase it leaves. -/
theorem transferEndsAsTheHostDecides : Obligations.TransferEndsAsTheHostDecides := by
  refine ⟨fun o t => Transfer.step_of_not_running, fun o t hp hstop => ?_,
    fun o t hp hcapture hf => ?_, fun o t u hp hcapture h => ?_⟩
  · exact ⟨_, Transfer.step_of_stop hp hstop, rfl, .inr (.inr rfl)⟩
  · obtain ⟨d, hstep, hfault⟩ := Transfer.step_of_decoder_fault hp hcapture hf
    exact ⟨_, hstep, rfl, .inl (hfault ▸ hf)⟩
  · cases Transfer.iterates_of_step hp hcapture h with
    | advanced d e hst => simp [hp, hst]
    | stopped d hst hgrew hstop =>
      simp [hst, hstop, hgrew, Transfer.endedBadly]
    | finished d hst hclosed => simp [hst, hclosed, Transfer.endedWell]
    | retried d hst =>
      rcases retryPhase_cases o.retryMax (t.retries + 1) with
        ⟨hphase, hbelow⟩ | ⟨hphase, hlimit⟩
      · have hlimit : ∀ m, o.retryMax = some m → ¬ m ≤ t.retries + 1 :=
          fun m hmax => not_le.2 (hbelow m hmax)
        simpa [hst, hphase] using hlimit
      · have hlimited : o.retryMax ≠ none := by
          obtain ⟨m, hmax, -⟩ := hlimit
          simp [hmax]
        simpa [hst, hphase, hlimited, Transfer.endedBadly] using hlimit
    | refused d hst => simp [hst]

end Sys2Proof.Machine
end

section
/-! A payload that `DB` does not divide, over a channel that shows every frame
(spec/46_sync_protocol.md R259, spec/45_frame_decoder.md R233): one invariant of the loop, in the place
`a` of the payload that the shown frame starts from. Every frame but the last is full, so it moves `a`
by `DB`; the rest is shorter than a frame, and its frame is terminal. -/

namespace Sys2Proof.Machine

/-! ## The encoder side -/

/-- `e` is `enc` after frames that carry the first `a` payload bytes. -/
structure State.EncodedUpTo (enc : State) (a : Nat) (e : State) : Prop where
  d : e.d = enc.d
  pay : e.pay = enc.pay
  plen : e.plen = enc.plen
  fault : e.fault = 0#3
  cfgv : e.cfgv = true
  plv : e.plv = true
  offset : e.encOff = a

/-- The payload slice of the frame that starts at byte `a`: up to `DB` bytes (R193). -/
def State.sliceFrom (s : State) (a : Nat) : List Byte := s.pay.slice a (min (s.plen - a) s.db)

theorem length_sliceFrom (s : State) (a : Nat) :
    (s.sliceFrom a).length = min (s.plen - a) s.db :=
  Memory.slice_length _ _ _

/-- The next slice starts where this one ends. -/
theorem slice_append_sliceFrom (s : State) (a : Nat) :
    s.pay.slice 0 a ++ s.sliceFrom a = s.pay.slice 0 (a + (s.sliceFrom a).length) := by
  rw [length_sliceFrom, Memory.slice_add, Nat.zero_add, State.sliceFrom]

/-- With a byte left, `ENC.NEXT` puts the frame of the next slice into `FB`. -/
theorem State.EncodedUpTo.next {enc e : State} {a : Nat} (h : enc.EncodedUpTo a e)
    (hroom : 1 ≤ enc.db) (hleft : a < enc.plen) :
    ∃ e' frame, exec .encNext e = .next e' ∧ e'.fb = some frame ∧
      makeFrame enc.d (enc.sliceFrom a) = some frame ∧
      enc.EncodedUpTo (a + (enc.sliceFrom a).length) e' := by
  have hdb : e.db = enc.db := congrArg (· / 8) h.d
  have hcount : e.nextCount = min (enc.plen - a) enc.db := by
    rw [State.nextCount, h.plen, h.offset, hdb]
  obtain ⟨frame, hmade, hexec⟩ := exec_encNext_emits h.fault h.cfgv h.plv
    (by rwa [h.offset, h.plen]) (by rwa [hdb])
  rw [h.d, h.pay, h.offset, hcount] at hmade
  have hoffset : (e.afterEncNext frame).encOff = a + (enc.sliceFrom a).length := by
    rw [length_sliceFrom, ← hcount, ← h.offset]
    rfl
  exact ⟨_, frame, hexec, rfl, hmade, h.d, h.pay, h.plen, h.fault, h.cfgv, h.plv, hoffset⟩

/-! ## The decoder side -/

/-- The frame of a slice that does not fill it is accepted with `TERMINAL`, its bytes are appended, and
the stream is closed (R233). -/
theorem State.Received.accept_rest {dec d : State} {bytes p : List Byte} {frame : List Cell}
    (h : dec.Received bytes d) (hp : 1 ≤ p.length) (hrest : p.length < dec.db)
    (hmade : makeFrame dec.d p = some frame) (hshows : d.shows frame) :
    ∃ d', exec .decFrame d = .next d' ∧ d'.st = 2#4 ∧ d'.decDone = true ∧
      d'.output = bytes ++ p := by
  have hd : d.d = dec.d := h.samples.d
  have hshort : p.length < d.d / 8 := by rwa [hd]
  obtain ⟨d', hexec, houtput, -, hdone, hst⟩ := frameRoundTrip d p frame h.fault h.notDone h.cfgv
    h.config h.out hp hshort.le (by rwa [hd]) hshows
  exact ⟨d', hexec, hst.trans (if_pos hshort), hdone.2 hshort, houtput.trans (by rw [h.output])⟩

/-! ## The loop -/

/-- What is outside the two blocks neither stops the hosts nor keeps a frame of `enc` from being
read by `dec`. -/
structure Outside.Delivers (o : Outside) (enc dec : State) : Prop where
  capture : ∀ i, o.stopsBeforeCapture i = false
  advance : ∀ i, o.stopsBeforeAdvance i = false
  shows : ∀ i p frame, 1 ≤ p.length → p.length ≤ enc.db → makeFrame enc.d p = some frame →
    ({ dec with img := o.channel i (some frame) } : State).shows frame

/-- The loop goes on, `FB` holds the frame of the slice from byte `a`, and the decoder has the bytes
before it. -/
structure Transfer.Delivering (enc dec : State) (a : Nat) (t : Transfer) : Prop where
  phase : t.phase = .running
  encoded : enc.EncodedUpTo (a + (enc.sliceFrom a).length) t.enc
  shown : ∃ frame, t.enc.fb = some frame ∧ makeFrame enc.d (enc.sliceFrom a) = some frame
  received : dec.Received (enc.pay.slice 0 a) t.dec

/-- The transfer has ended well, and the payload is delivered. -/
structure Transfer.Delivered (enc : State) (t : Transfer) : Prop where
  phase : t.phase = .finished
  endedWell : t.endedWell
  output : t.dec.output = enc.payload

section
variable {enc dec : State} {o : Outside} {a : Nat} {t : Transfer}

/-- The capture of an iteration shows the frame in `FB`. -/
theorem Transfer.Delivering.capture (h : t.Delivering enc dec a) (ho : o.Delivers enc dec)
    (hroom : 1 ≤ enc.db) (hleft : a < enc.plen) :
    ∃ frame, makeFrame enc.d (enc.sliceFrom a) = some frame ∧
      ({ t.dec with img := o.channel t.iter t.enc.fb } : State).shows frame := by
  obtain ⟨frame, hfb, hmade⟩ := h.shown
  have hlength := length_sliceFrom enc a
  refine ⟨frame, hmade, (h.received.samples.capture _ _).shows rfl ?_⟩
  rw [hfb]
  exact ho.shows t.iter _ _ (by omega) (by omega) hmade

/-- A full frame with bytes left after it is accepted, and the next one is shown. -/
theorem Transfer.Delivering.step_full (h : t.Delivering enc dec a) (ho : o.Delivers enc dec)
    (hd : dec.d = enc.d) (hroom : 1 ≤ enc.db) (hmore : a + enc.db < enc.plen) :
    ∃ u, t.step o = .next u ∧ u.Delivering enc dec (a + enc.db) := by
  have hdb : dec.db = enc.db := congrArg (· / 8) hd
  have hfull : (enc.sliceFrom a).length = enc.db := by
    rw [length_sliceFrom]
    omega
  obtain ⟨frame, hmade, hshows⟩ := h.capture ho hroom (by omega)
  obtain ⟨d', hdec, hst, hreceived⟩ := (h.received.capture _).accept_full (hdb ▸ hroom)
    (hfull.trans hdb.symm) (by rwa [hd]) hshows
  have hencoded := h.encoded
  rw [slice_append_sliceFrom, hfull] at hreceived
  rw [hfull] at hencoded
  obtain ⟨e', frame', hnext, hfb', hmade', hencoded'⟩ := hencoded.next hroom hmore
  exact ⟨_, (Transfer.step_acts h.phase (ho.capture _) hdec).trans
    (Transfer.act_advance hst (ho.advance _) hnext),
    h.phase, hencoded', ⟨frame', hfb', hmade'⟩, hreceived⟩

/-- The rest ends the transfer. -/
theorem Transfer.Delivering.step_rest (h : t.Delivering enc dec a) (ho : o.Delivers enc dec)
    (hd : dec.d = enc.d) (hleft : a < enc.plen) (hrest : enc.plen < a + enc.db) :
    ∃ u, t.step o = .next u ∧ u.Delivered enc := by
  have hdb : dec.db = enc.db := congrArg (· / 8) hd
  have hlength : (enc.sliceFrom a).length = enc.plen - a := by
    rw [length_sliceFrom]
    omega
  have hpos : 1 ≤ (enc.sliceFrom a).length := by omega
  have hshort : (enc.sliceFrom a).length < dec.db := by omega
  obtain ⟨frame, hmade, hshows⟩ := h.capture ho (by omega) hleft
  obtain ⟨d', hdec, hst, hdone, houtput⟩ := (h.received.capture _).accept_rest hpos hshort
    (by rwa [hd]) hshows
  rw [slice_append_sliceFrom, hlength, Nat.add_sub_cancel' hleft.le] at houtput
  exact ⟨_, (Transfer.step_acts h.phase (ho.capture _) hdec).trans (Transfer.act_terminal hst),
    rfl, hdone, houtput⟩

/-- With `q` full frames and a rest left, the transfer ends after `q + 1` iterations. -/
theorem Transfer.Delivering.run {q rest : Nat} (h : t.Delivering enc dec a)
    (ho : o.Delivers enc dec) (hd : dec.d = enc.d) (hpos : 0 < rest) (hrest : rest < enc.db)
    (hleft : enc.plen = a + (q * enc.db + rest)) :
    ∃ u, Transfer.run o (q + 1) t = .next u ∧ u.Delivered enc := by
  induction q generalizing a t with
  | zero =>
    obtain ⟨u, hstep, hu⟩ := h.step_rest ho hd (by omega) (by omega)
    exact ⟨u, Transfer.run_succ hstep, hu⟩
  | succ q ih =>
    rw [Nat.succ_mul] at hleft
    obtain ⟨u, hstep, hu⟩ := h.step_full ho hd (by omega) (by omega)
    obtain ⟨v, hrun, hv⟩ := ih hu (by omega)
    exact ⟨v, (Transfer.run_succ hstep).trans hrun, hv⟩

end

/-! ## The faithful channel -/

/-- A frame has as many cells as the grid (R27, R192). -/
theorem length_of_frame {s : State} {p : List Byte} {frame : List Cell} (h : s.ConfigInv)
    (hc : s.cfgv = true) (hp : 1 ≤ p.length) (hfits : p.length ≤ s.db)
    (hmade : makeFrame s.d p = some frame) : frame.length = s.c := by
  obtain ⟨-, -, -, hcells, hd, haligned, -⟩ := h.1 hc
  have hroom : 8 * p.length ≤ s.d := by
    have hdb := eight_mul_db h hc
    omega
  obtain ⟨hlength, -⟩ := encodedFrameFacts s.d p frame haligned hp hroom hmade
  omega

/-- The faithful channel into `dec` delivers the frames of an encoder with the same capacity. -/
theorem faithful_delivers {enc dec : State} {r : Config.Render} {background : Nat → Memory}
    (retryMax : Option Nat) (h : dec.ConfigInv) (hc : dec.cfgv = true) (hd : dec.d = enc.d)
    (hrender : renderOk r = true) (hw : dec.cols ≤ dec.w) (hh : dec.rows ≤ dec.h)
    (hbackground : ∀ i, (background i).wf) :
    (faithful dec r background retryMax).Delivers enc dec where
  capture _ := rfl
  advance _ := rfl
  shows i p frame hp hfits hmade := by
    have hdb : dec.db = enc.db := congrArg (· / 8) hd
    exact faithfulImageShowsTheFrame dec r (background i) frame h hc hrender hw hh (hbackground i)
      (length_of_frame h hc hp (hdb ▸ hfits) (by rwa [hd]))

/-- Settles O58: the invariant holds after the first `ENC.NEXT`, each full frame keeps it, and the rest
of the payload ends the transfer. -/
theorem transferDeliversThePayload : Obligations.TransferDeliversThePayload := by
  intro enc dec r background retryMax henc hdec hfe hfd hp hoff hcd hlen hopen hrows hcols hw hh
    hrender hbackground hrest
  obtain ⟨-, hconfigured, -⟩ := henc.encoder
  have hce : enc.cfgv = true := hconfigured hp
  have hd : dec.d = enc.d := d_eq_of_same_grid hdec.config henc.config hcd hce hrows hcols
  have hroom : 1 ≤ enc.db := db_pos henc.config hce
  have hpos : 0 < enc.plen % enc.db := Nat.pos_of_ne_zero hrest
  have hfirst : enc.EncodedUpTo 0 enc := ⟨rfl, rfl, rfl, hfe, hce, hp, hoff⟩
  obtain ⟨e, frame, hstart, hfb, hmade, hencoded⟩ :=
    hfirst.next hroom (hpos.trans_le (Nat.mod_le _ _))
  have hinit : Transfer.Delivering enc dec 0
      { enc := e, dec := dec, iter := 1, retries := 0, phase := .running } :=
    ⟨rfl, hencoded, ⟨frame, hfb, hmade⟩, hdec.received_nil hcd hfd hlen hopen⟩
  have hleft : enc.plen = 0 + (enc.plen / enc.db * enc.db + enc.plen % enc.db) := by
    rw [Nat.zero_add, Nat.div_add_mod']
  obtain ⟨t, hrun, ht⟩ := hinit.run
    (faithful_delivers retryMax hdec.config hcd hd hrender hw hh hbackground) hd hpos
    (Nat.mod_lt _ hroom) hleft
  exact ⟨_, _, t, by rw [Transfer.start, hstart], hrun, ht.phase, ht.endedWell, ht.output⟩

end Sys2Proof.Machine
end

section
/-! The step with nothing presented (spec/60_exceptions.md R284). -/

namespace Sys2Proof.Machine

/-- Settles O7: the step with nothing presented. -/
theorem idleBlockKeepsItsState : Obligations.IdleBlockKeepsItsState := by
  intro s hport
  rw [step, hport]

end Sys2Proof.Machine
end

section
/-! What the port limits of R8 admit (spec/00_scope.md R8, spec/30_encoding.md R94). -/

namespace Sys2Proof

/-- A number that fits `k` bits fits every port of `k` bits or more. -/
theorem fitsWidth_of_lt {width : Option Nat} {k n : Nat} (hwidth : ∀ w, width = some w → k ≤ w)
    (hn : n < 2 ^ k) : fitsWidth width n = true := by
  cases width with
  | none => rfl
  | some w => exact decide_eq_true (hn.trans_le (Nat.pow_le_pow_right (by omega) (hwidth w rfl)))

/-- A maximum that admits a length admits every shorter one. -/
theorem withinMax_mono {max : Option Nat} {m n : Nat} (hle : n ≤ m) (hm : withinMax max m = true) :
    withinMax max n = true := by
  cases max with
  | none => rfl
  | some k => exact decide_eq_true (hle.trans (of_decide_eq_true hm))

/-- A `CFG` can be presented when its dimensions fit `DIM_W` and its coordinates `COORD_W` (R94). -/
theorem wf_cfg_iff {lim : Config.Limits} {rows cols tlx tly trx try_ blx bly : Nat} :
    (Instr.cfg rows cols tlx tly trx try_ blx bly).wf lim = true ↔
      (∀ n ∈ [rows, cols], fitsWidth lim.dimW n = true) ∧
        ∀ n ∈ [tlx, tly, trx, try_, blx, bly], fitsWidth lim.coordW n = true := by
  simp [Instr.wf, and_assoc]

/-- Settles O5: the example's dimensions are below `2 ^ 8` and its coordinates below `2 ^ 11`, and a
`CFG` that can be presented has a data region within `DIG_MAX`. -/
theorem legalLimitsAdmitTheSourceExample : Obligations.LegalLimitsAdmitTheSourceExample := by
  intro lim ⟨hdim, hcoord, hdig⟩
  refine ⟨wf_cfg_iff.2 ⟨fun n hn => ?_, fun n hn => ?_⟩, ?_⟩
  · have hsmall : ∀ n ∈ [49, 160], n < 2 ^ 8 := by decide
    exact fitsWidth_of_lt hdim (hsmall n hn)
  · have hsmall : ∀ n ∈ [320, 154, 1603, 154, 320, 938], n < 2 ^ 11 := by decide
    exact fitsWidth_of_lt hcoord (hsmall n hn)
  · intro rows cols tlx tly trx try_ blx bly b hwf hcells haligned hlength
    obtain ⟨hdims, -⟩ := wf_cfg_iff.1 hwf
    have hregion : withinMax lim.digMax (rows * cols - 256) = true :=
      hdig rows cols (hdims rows (by simp)) (hdims cols (by simp)) hcells haligned
    exact withinMax_mono hlength hregion

end Sys2Proof
end

section
/-! How an op ends (spec/60_exceptions.md R276 to R281): the refusals, the one outcome of every op,
and what a fatal and a recoverable error leave behind. -/

namespace Sys2Proof.Machine

/-! ## The result registers -/

section
variable (s : State) (st : BitVec 4) (err : BitVec 3) (info : BitVec 8) (r : Result)

@[simp] theorem State.report_st : (s.report st err info r).st = st := rfl
@[simp] theorem State.report_err : (s.report st err info r).err = err := rfl
@[simp] theorem State.report_info : (s.report st err info r).info = info := rfl
@[simp] theorem State.report_result : (s.report st err info r).result = r := rfl
@[simp] theorem State.report_fault : (s.report st err info r).fault = s.fault := rfl
@[simp] theorem State.report_out : (s.report st err info r).out = s.out := rfl
@[simp] theorem State.report_outLen : (s.report st err info r).outLen = s.outLen := rfl

end

/-! ## Refusals -/

/-- An op that fails an admission test writes `REFUSED` and the reason (R278). -/
theorem exec_of_refused {i : Instr} {s : State} {why : RefuseReason}
    (h : admission i s = some why) : exec i s = .next (s.report 6#4 0#3 why.code .none) := by
  obtain ⟨body, hbody⟩ := exec_eq_performed i s
  rw [hbody, performed_refused h, refuse_eq_report]

/-- Settles O13: the tests are those of `admission_eq` in its order, and past the first two an op's
own test decides. -/
theorem refusalTestsInOrder : Obligations.RefusalTestsInOrder := by
  refine ⟨reservedWordIsRefused, fun s => ⟨s.restart, execRst_eq s, s.restart_st⟩, ?_⟩
  intro i s hi refused
  have refused_of {why : RefuseReason} (h : admission i s = some why) : refused why.code :=
    ⟨.none, exec_of_refused h⟩
  have refused_of_own {why : RefuseReason} (hf : s.fault = 0#3) (hc : s.cfgv = true)
      (h : ownTest i s = some why) : refused why.code :=
    refused_of ((admission_of_configured hi hf hc).trans h)
  refine ⟨fun hf => ?_, fun hf hc hneeds => ?_, fun hf hc hop => ?_, fun hf hc hp hop => ?_,
    fun hf hc hp hop => ?_, fun hf hc hd hop => ?_, fun hf hc hop => ?_⟩
  · exact refused_of (why := .faulted) (by simp [admission_eq hi, hf])
  · have hneeds : needsConfig i = true := by
      rcases hneeds with ⟨_, _, rfl⟩ | rfl | rfl | ⟨_, rfl⟩ | rfl | rfl <;> rfl
    exact refused_of (why := .notConfigured) (by simp [admission_eq hi, hf, hc, hneeds])
  · obtain ⟨_, _, _, _, _, _, _, _, rfl⟩ := hop
    exact refused_of_own (why := .alreadyConfigured) hf hc (by simp [ownTest, hc])
  · subst hop
    exact refused_of_own (why := .noPayload) hf hc (by simp [ownTest, hp])
  · obtain ⟨_, rfl⟩ := hop
    exact refused_of_own (why := .alreadyLoaded) hf hc (by simp [ownTest, hp])
  · subst hop
    exact refused_of_own (why := .streamClosed) hf hc (by simp [ownTest, hd])
  · obtain ⟨_, _, rfl, hrange⟩ := hop
    exact refused_of_own (why := .badOperand) hf hc (by simp [ownTest, hrange])

/-! ## The one outcome of every op -/

/-- `Ends i s t`: the op `i` in `s` ends in `t`, by the rows of the table of R279; the fatal row and
the row of an accepted frame are two each. -/
inductive Ends : Instr → State → State → Prop
  /-- `OK`, the outcome of an op other than `DEC.FRAME` that completes. -/
  | ok {i : Instr} {s t : State} (op : i ≠ .decFrame) (st : t.st = 0#4) (err : t.err = 0#3)
      (fault : i ≠ .rst → t.fault = s.fault) : Ends i s t
  /-- `ADVANCE`. -/
  | advance {s : State} (out : Memory) (outLen : Nat) (r : Result) :
      Ends .decFrame s (({ s with out := out, outLen := outLen } : State).report 1#4 0#3 0#8 r)
  /-- `TERMINAL`. -/
  | terminal {s : State} (out : Memory) (outLen : Nat) (r : Result) :
      Ends .decFrame s
        (({ s with out := out, outLen := outLen, decDone := true } : State).report 2#4 0#3 0#8 r)
  /-- `RETRY`. -/
  | retry {s : State} {err : BitVec 3} (info : BitVec 8) (kind : err = 2#3 ∨ err = 3#3) :
      Ends .decFrame s (s.report 3#4 err info .none)
  /-- `ERROR`. -/
  | error {s : State} (b : List Bit) (info : BitVec 8) :
      Ends (.dig b) s (s.report 4#4 1#3 info .none)
  /-- `FATAL` of `CFG`. -/
  | fatalConfig {s : State} (rows cols tlx tly trx try_ blx bly : Nat) (info : BitVec 8)
      (fault : s.fault = 0#3) :
      Ends (.cfg rows cols tlx tly trx try_ blx bly) s
        (({ s with fault := 5#3 } : State).report 5#4 5#3 info .none)
  /-- `FATAL` of `ENC.NEXT`. -/
  | fatalEncode {s : State} (info : BitVec 8) (fault : s.fault = 0#3) :
      Ends .encNext s (({ s with fault := 1#3 } : State).report 5#4 1#3 info .none)
  /-- `REFUSED`. -/
  | refused {i : Instr} {s : State} (info : BitVec 8) : Ends i s (s.report 6#4 0#3 info .none)

/-- A fatal error where `FAULT` is 0, as what it reports (R276). -/
theorem raiseError_fatal_eq_report {s : State} (hf : s.fault = 0#3) (e : ErrorKind)
    (info : BitVec 8) :
    s.raiseError .fatal e info =
      ({ s with fault := e.code } : State).report 5#4 e.code info .none :=
  raiseError_fatal hf e info

/-- A recoverable error writes the result registers only (R277). -/
theorem raiseError_recoverable_eq_report (s : State) (e : ErrorKind) (info : BitVec 8) :
    s.raiseError .recoverable e info = s.report 3#4 e.code info .none := rfl

/-- Acceptance is `ADVANCE` where the data region has no `Pad` cell, and else `TERMINAL` (R229). -/
theorem ends_acceptFrame (s : State) (valid : List Bit) (npad : Nat) :
    Ends .decFrame s (s.acceptFrame valid npad) := by
  cases npad with
  | zero => exact .advance _ _ _
  | succ n =>
    have hclosed : decDoneFlag (n + 1) s.decDone = true := by simp [decDoneFlag]
    have hstatus : acceptStatus (n + 1) = .terminal := by simp [acceptStatus]
    rw [State.acceptFrame, hclosed, hstatus]
    exact .terminal _ _ _

/-- Every op that answers a next state ends in a row of the table (R279). -/
theorem exec_ends {i : Instr} {s t : State} (h : exec i s = .next t) : Ends i s t := by
  rcases exec_cases h with ⟨rfl, rfl⟩ | ⟨-, why, rfl⟩ |
    ⟨_, _, _, _, _, _, _, _, rfl, hf, -, ⟨info, rfl⟩ | ⟨-, rfl⟩⟩ |
    ⟨hop, ⟨r, rfl⟩ | ⟨⟨b, rfl⟩, info, rfl⟩⟩ | ⟨bytes, rfl, -, -, -, rfl⟩ |
    ⟨rfl, hf, -, -, ⟨-, rfl⟩ | ⟨-, p, cells, -, -, rfl⟩⟩ |
    ⟨rfl, -, -, -, cells, -, ⟨e, info, he, rfl⟩ | ⟨-, -, rfl⟩⟩
  · exact .ok (by simp) rfl rfl (absurd rfl)
  · exact .refused why.code
  · rw [raiseError_fatal_eq_report hf]
    exact .fatalConfig _ _ _ _ _ _ _ _ info hf
  · exact .ok (by simp) rfl rfl fun _ => rfl
  · have hne : i ≠ .decFrame := by rintro rfl; simp at hop
    exact .ok hne rfl rfl fun _ => rfl
  · exact .error b info
  · exact .ok (by simp) rfl rfl fun _ => rfl
  · rw [raiseError_fatal_eq_report hf]
    exact .fatalEncode _ hf
  · exact .ok (by simp) rfl rfl fun _ => rfl
  · rw [raiseError_recoverable_eq_report]
    exact .retry info (by rcases he with rfl | rfl <;> simp [ErrorKind.code])
  · exact ends_acceptFrame s _ _

/-- Settles O44: each row of `Ends` has one value of `ST`, so one clause speaks of it. -/
theorem outcomeTable : Obligations.OutcomeTable := by
  intro i s t h
  cases exec_ends h with
  | ok op st err => simp [st, err, op]
  | advance | terminal | error | fatalConfig | fatalEncode | refused => simp
  | retry info kind => simpa using kind

/-! ## Fatal errors -/

/-- Settles O42: the two fatal rows of `Ends` are the ones that change `FAULT`, and the fault they
leave has every op but `RST` refused. -/
theorem fatalErrorIsPrecise : Obligations.FatalErrorIsPrecise := by
  intro i s t hi h hchanged
  have hraised : s.fault = 0#3 ∧
      ((t.fault = 5#3 ∧ ∃ rows cols tlx tly trx try_ blx bly,
        i = .cfg rows cols tlx tly trx try_ blx bly) ∨ (t.fault = 1#3 ∧ i = .encNext)) ∧
      t = ({ s with fault := t.fault } : State).report 5#4 t.fault t.info t.result := by
    cases exec_ends h with
    | ok _ _ _ fault => exact absurd (fault hi) hchanged
    | advance | terminal | retry | error | refused => exact absurd rfl hchanged
    | fatalConfig _ _ _ _ _ _ _ _ _ fault =>
      exact ⟨fault, .inl ⟨rfl, _, _, _, _, _, _, _, _, rfl⟩, rfl⟩
    | fatalEncode _ fault => exact ⟨fault, .inr ⟨rfl, rfl⟩, rfl⟩
  obtain ⟨hf, hcode, hwritten⟩ := hraised
  have hfaulted : t.fault ≠ 0#3 := hf ▸ hchanged
  obtain ⟨hrefused, -⟩ := faultIsStickyUntilReset t hfaulted
  exact ⟨hf, hcode, hwritten, hrefused⟩

/-! ## Recoverable errors -/

/-- An open decoder answers `RETRY` to a string that fails a check (R230). -/
theorem exec_decFrame_rejects {s : State} {cells : List Cell} {e : ErrorKind} {info : BitVec 8}
    (hf : s.fault = 0#3) (hc : s.cfgv = true) (hd : s.decDone = false) (hshows : s.shows cells)
    (herror : checkFrame (cells.take s.d) (cells.drop s.d) = .error (e, info)) :
    exec .decFrame s = .next (s.report 3#4 e.code info .none) := by
  rw [exec_decFrame_of_shows hf hc hd hshows, decodeCells_of_error herror]

/-- What a `DEC.FRAME` that answers `RETRY` found: an open stream, and a string that fails a
check. -/
theorem exec_decFrame_retry {s t : State} (h : exec .decFrame s = .next t) (hst : t.st = 3#4) :
    s.fault = 0#3 ∧ s.cfgv = true ∧ s.decDone = false ∧ ∃ cells e info, s.shows cells ∧
      checkFrame (cells.take s.d) (cells.drop s.d) = .error (e, info) ∧
      t = s.report 3#4 e.code info .none := by
  rcases execDecFrame_cases h with ⟨why, rfl⟩ | ⟨hf, hc, hd, cells, hsampled, rfl⟩
  · simp at hst
  · rcases decodeCells_cases s cells with ⟨e, info, herror, heq⟩ | ⟨-, heq⟩
    · exact ⟨hf, hc, hd, cells, e, info, shows_of_sampled hsampled, herror, heq⟩
    · have hcompleted := acceptStatus_code_lt (padCount (cells.take s.d))
      rw [heq, State.acceptFrame_st] at hst
      rw [hst] at hcompleted
      exact absurd hcompleted (by decide)

/-- Settles O40: the result registers are no part of what a `DEC.FRAME` reads, so the same string
fails the same check. -/
theorem retryLeavesNoTrace : Obligations.RetryLeavesNoTrace := by
  intro s t h hst
  obtain ⟨hf, hc, hd, cells, e, info, hshows, herror, rfl⟩ := exec_decFrame_retry h hst
  have hagain : exec .decFrame (s.report 3#4 e.code info .none) =
      .next ((s.report 3#4 e.code info .none).report 3#4 e.code info .none) :=
    exec_decFrame_rejects hf hc hd hshows herror
  exact ⟨rfl, hf, hagain⟩

end Sys2Proof.Machine
end
